-- ==== Sys2Proof/Word.lean ====
section
/-! DEFINITION. The words of the unit: bytes, samples, and the two word forms an instruction is decoded from. -/

namespace Sys2Proof

/-- A byte of the source, of a block header or of a payload. -/
abbrev Byte := BitVec 8

/-- An `i32` sample: 32 bits, read as two's complement wherever a sign matters (`00_scope.md` R5, SAMPLE_W). -/
abbrev Sample := BitVec 32

/-- What the decoder is given: a block header as the 128-bit number H of `30_encoding.md` R72, or the
32-bit word the host wrote to CTRL (R84). -/
inductive InstrWord where
  | header (h : BitVec 128)
  | ctrl (d : BitVec 32)
deriving DecidableEq, Repr

end Sys2Proof
end

