-- ==== Sys2Proof/Config.lean ====
section
/-! DEFINITION. What is fixed for a machine: the constants of `00_scope.md` R5, the open parameters of R6, and
the free values (constants without a body) of what `10_state.md` R28 leaves unspecified. -/

namespace Sys2Proof

/-- TRIM_POLICY (`00_scope.md` R6): which samples of the final block-group are kept
(`42_assembler.md` R155, R156, R157). -/
inductive TrimPolicy where
  | dropFirst
  | dropLast
  | keepFirst
deriving DecidableEq, Repr

/-- The parameters the source leaves open (`00_scope.md` R6) that belong to the machine. They are held as data
and never changed, so that a statement about every state is a statement about every value of them
(log entry 1). -/
structure Params where
  /-- BLOCK_MAGIC (R73). -/
  blockMagic : BitVec 32
  /-- TRIM_POLICY (R154). -/
  trimPolicy : TrimPolicy
  /-- MAX_CH: how many channel buffers the unit has. -/
  maxCh : Nat
  /-- CHBUF_DEPTH: the capacity of one channel buffer, in samples. -/
  chbufDepth : Nat
  /-- OFFTAB_DEPTH: how many entries the offset table has. -/
  offtabDepth : Nat
deriving DecidableEq, Repr

namespace Config

/-- CAP: samples per block per channel (`00_scope.md` R5). -/
def cap : Nat := 512

/-- BH_SIZE: bytes in a block header (R5). -/
def headerBytes : Nat := 16

/-- W_MAX: the largest legal field width (R6, D7). -/
def wMax : Nat := 32

/-- RAW_DEPTHS: the legal BITS_PER_SAMPLE of a RAW block (R6, D8). -/
def rawDepths : List Nat := [8, 16, 24, 32]

/-- The bytes the payload buffer PAY can hold (`10_state.md` R16). -/
def payBytes : Nat := 2048

/-- The default of BLOCK_MAGIC. PRESUMED: the spec takes it from general knowledge (G1); log entry 2. -/
def defaultMagic : BitVec 32 := 0x160C9A3E

/-- FILE_HDR_SIZE: bytes in the file preamble, host side only (R5). -/
def fileHeaderBytes : Nat := 120

/-- The two accepted file magics, host side only. PRESUMED: general knowledge (G3); log entry 23. -/
def defaultFileMagics : List (BitVec 64) := [0x01A89ED631010000, 0x01A89ED630010000]

/-- The parameters at their defaults (R6). The capacities are the maxima R6 names for a model without
capacity limits. DESIGN CHOICE: log entry 3. -/
def defaultParams : Params :=
  { blockMagic := defaultMagic
    trimPolicy := .dropFirst
    maxCh := 65535
    chbufDepth := 512 * (2 ^ 32 - 1)
    offtabDepth := 2 ^ 32 - 1 }

/-- Free value: byte `i` of PAY after the `n`-th reset (`10_state.md` R28, U9; log entry 4). -/
opaque freePayByte : Nat → Nat → BitVec 8

/-- Free value: element `i` of S after the `n`-th reset (R28, U9; log entry 4). -/
opaque freeSample : Nat → Nat → BitVec 32

/-- Free value: OFFTAB entry `g`, not written since the hardware reset of number `n` (R28, U9; log entry 5). -/
opaque freeOfftab : Nat → Nat → BitVec 32

end Config
end Sys2Proof
end

