-- ==== Sys2Proof/Syntax.lean ====
section
/-! DEFINITION. The instructions (`30_encoding.md` R70): three stream instructions of format BH and two host
commands of format CTRL. -/

namespace Sys2Proof

/-- One constructor per mnemonic of the opcode table. Every field of the word stands in the syntax, the ignored
ones too, so that a word is recovered from its instruction.
`base` is baseValue (R74), `w` the field width |bits| (R75), `flags` all 16 flag bits (R77), `reserved` the bytes
h12 to h15 as H[127:96] (R78), `ignored` the bits d[31:2] of a CTRL write (R84). -/
inductive Instr where
  /-- RAW (R130). -/
  | raw (base : BitVec 32) (flags : BitVec 16) (reserved : BitVec 32)
  /-- DELTA (R131), `bits = w`. -/
  | delta (base : BitVec 32) (w : Nat) (flags : BitVec 16) (reserved : BitVec 32)
  /-- TRUNC (R132), `bits = -w`. -/
  | trunc (base : BitVec 32) (w : Nat) (flags : BitVec 16) (reserved : BitVec 32)
  /-- START (R183). -/
  | start (ignored : BitVec 30)
  /-- RESET (R185); `startBit` is d[0], dropped (R186). -/
  | reset (startBit : Bool) (ignored : BitVec 30)
deriving DecidableEq, Repr

end Sys2Proof
end

