-- ==== Sys2Proof/WellFormed.lean ====
section
/-! DEFINITION. Which instructions the encoding can express as legal (`30_encoding.md` R81, R82). -/

namespace Sys2Proof

/-- `FLAGS[1:0]` must be 0b00 in an executable header (R77). -/
def flagsLegal (flags : BitVec 16) : Bool := !flags.getLsbD 0 && !flags.getLsbD 1

/-- A packed width is legal when 1 ≤ w ≤ W_MAX (R75, R82). -/
def widthLegal (w : Nat) : Bool := decide (1 ≤ w) && decide (w ≤ Config.wMax)

/-- An instruction some word of the encoding decodes to. -/
def Instr.wellFormed : Instr → Bool
  | .raw _ flags _ => flagsLegal flags
  | .delta _ w flags _ => widthLegal w && flagsLegal flags
  | .trunc _ w flags _ => widthLegal w && flagsLegal flags
  | .start _ => true
  | .reset _ _ => true

end Sys2Proof
end

