-- ==== Sys2Proof/Decode.lean ====
section
/-! DEFINITION. The decoder of block headers and of CTRL writes (`30_encoding.md` R71 to R78, R81, R82, R84), total
on any word and rejecting by name, then the encoder written from the same tables. -/

namespace Sys2Proof

/-- `le(b0, b1, …)` of `00_scope.md` R7, on a byte list, lowest address first. -/
def leNat : List Byte → Nat
  | [] => 0
  | b :: bs => b.toNat + 256 * leNat bs

/-- `be(b0, b1, …)` of R7. -/
def beNat (bs : List Byte) : Nat := leNat bs.reverse

/-- Why a header is no instruction: the faults of R81, steps 1, 2, 3 and 7. -/
inductive HeaderFault where
  | invalidBlockSignature
  | unsupportedChannelEncoding
  | unsupportedSampleFormat
  | unsupportedWidth
deriving DecidableEq, Repr

/-- Why a word is no instruction: a faulty header, or a CTRL write with d[1:0] = 0b00, which is no operation
(R186). -/
inductive Rejection where
  | header (f : HeaderFault)
  | noOperation
deriving DecidableEq, Repr

/-- H = le(h0, …, h15), the header bytes as one 128-bit number (R72). -/
def headerWord (hdr : List Byte) : BitVec 128 := BitVec.ofNat 128 (leNat hdr)

/-- Byte `h_i` of a header, bits 8i to 8i + 7 of H (R72). -/
def headerByte (h : BitVec 128) (i : Nat) : Byte := h.extractLsb' (8 * i) 8

/-- magic = be(h0, h1, h2, h3) (R73). -/
def headerMagic (h : BitVec 128) : BitVec 32 :=
  (headerByte h 0).setWidth 32 <<< 24 ||| (headerByte h 1).setWidth 32 <<< 16
    ||| (headerByte h 2).setWidth 32 <<< 8 ||| (headerByte h 3).setWidth 32

/-- baseValue, H[63:32] (R71, R74). -/
def headerBase (h : BitVec 128) : BitVec 32 := h.extractLsb' 32 32

/-- bits, H[79:64] (R71, R75). -/
def headerBits (h : BitVec 128) : BitVec 16 := h.extractLsb' 64 16

/-- flags, H[95:80] (R71, R77). -/
def headerFlags (h : BitVec 128) : BitVec 16 := h.extractLsb' 80 16

/-- The reserved bytes, H[127:96] (R71, R78). -/
def headerReserved (h : BitVec 128) : BitVec 32 := h.extractLsb' 96 32

/-- Steps 4 to 7 of R81: the instruction a legal-flag header names, by the sign and magnitude of `bits`, which are
taken exactly (R126: -32768 has magnitude 32768). -/
def decodeMode (h : BitVec 128) : Except HeaderFault Instr :=
  let b := (headerBits h).toInt
  if b = 0 then .ok (.raw (headerBase h) (headerFlags h) (headerReserved h))
  else if (Config.wMax : Int) < b ∨ b < -(Config.wMax : Int) then .error .unsupportedWidth
  else if 0 < b then .ok (.delta (headerBase h) b.toNat (headerFlags h) (headerReserved h))
  else .ok (.trunc (headerBase h) (-b).toNat (headerFlags h) (headerReserved h))

/-- R81 in the order the unit checks: magic, flag bit 0, flag bit 1, then the mode. -/
def decodeHeader (magic : BitVec 32) (h : BitVec 128) : Except HeaderFault Instr :=
  if headerMagic h ≠ magic then .error .invalidBlockSignature
  else if (headerFlags h).getLsbD 0 then .error .unsupportedChannelEncoding
  else if (headerFlags h).getLsbD 1 then .error .unsupportedSampleFormat
  else decodeMode h

/-- R84: d[1] = 1 is RESET whatever d[0] is; d[1:0] = 0b01 is START; d[1:0] = 0b00 is no operation. -/
def decodeCtrl (d : BitVec 32) : Except Rejection Instr :=
  if d.getLsbD 1 then .ok (.reset (d.getLsbD 0) (d.extractLsb' 2 30))
  else if d.getLsbD 0 then .ok (.start (d.extractLsb' 2 30))
  else .error .noOperation

/-- The decoder on either form. -/
def decode (magic : BitVec 32) : InstrWord → Except Rejection Instr
  | .header h =>
    match decodeHeader magic h with
    | .ok i => .ok i
    | .error f => .error (.header f)
  | .ctrl d => decodeCtrl d

/-! The encoder. -/

/-- Byte `i` of a 32-bit value, byte 0 the least significant. -/
def byteOf (v : BitVec 32) (i : Nat) : Byte := v.extractLsb' (8 * i) 8

/-- A header from its fields (R71, R72): h0 is the most significant byte of the magic, every other field lies at its
little-endian place in H. -/
def encodeHeader (magic base : BitVec 32) (bits flags : BitVec 16) (reserved : BitVec 32) : BitVec 128 :=
  (byteOf magic 3).setWidth 128 ||| (byteOf magic 2).setWidth 128 <<< 8
    ||| (byteOf magic 1).setWidth 128 <<< 16 ||| (byteOf magic 0).setWidth 128 <<< 24
    ||| base.setWidth 128 <<< 32 ||| bits.setWidth 128 <<< 64 ||| flags.setWidth 128 <<< 80
    ||| reserved.setWidth 128 <<< 96

/-- A CTRL word from its bits (R84): START is d[0], RESET is d[1], the rest is ignored. -/
def encodeCtrl (resetBit startBit : Bool) (ignored : BitVec 30) : BitVec 32 :=
  (BitVec.ofBool startBit).setWidth 32 ||| (BitVec.ofBool resetBit).setWidth 32 <<< 1 ||| ignored.setWidth 32 <<< 2

/-- The word of a well-formed instruction (R85: `bits` is +w for DELTA, -w for TRUNC, 0 for RAW). -/
def encode (magic : BitVec 32) : Instr → InstrWord
  | .raw base flags reserved => .header (encodeHeader magic base 0 flags reserved)
  | .delta base w flags reserved => .header (encodeHeader magic base (BitVec.ofNat 16 w) flags reserved)
  | .trunc base w flags reserved => .header (encodeHeader magic base (BitVec.ofInt 16 (-(w : Int))) flags reserved)
  | .start ignored => .ctrl (encodeCtrl false true ignored)
  | .reset startBit ignored => .ctrl (encodeCtrl true startBit ignored)

/-- The `n` bytes of a number, lowest first. -/
def leBytes : Nat → Nat → List Byte
  | 0, _ => []
  | n + 1, v => BitVec.ofNat 8 v :: leBytes n (v / 256)

/-- The instruction the decoder reads from a table word: a 128-bit word is the header's 16 bytes as SRC stores them,
under the default BLOCK_MAGIC the table is built with; a 32-bit word is a CTRL write. -/
def decodeTableWord (nbits w : Nat) : Option Instr :=
  let word : Option InstrWord :=
    if nbits = 128 then some (.header (headerWord (leBytes Config.headerBytes w)))
    else if nbits = 32 then some (.ctrl (BitVec.ofNat 32 w))
    else none
  word.bind fun x =>
    match decode Config.defaultMagic x with
    | .ok i => some i
    | .error _ => none

end Sys2Proof
end

