-- ==== Sys2Proof/Machine/State.lean ====
section
/-! DEFINITION. Everything the spec gives the machine (`10_state.md`), the parameters and the environment it runs
in, the stops of the model, and the state after hardware reset (R28). -/

namespace Sys2Proof.Machine

/-- STATE (R13): where the session stands. -/
inductive Session where
  | idle
  | busy
  | done
  | error
deriving DecidableEq, Repr

/-- PHASE (R13): which operation of `42_assembler.md` R150 runs next while BUSY. -/
inductive Phase where
  | seek
  | block
  | check
  | interleave
deriving DecidableEq, Repr

/-- MODE (R15): the decoded opcode. -/
inductive Mode where
  | raw
  | delta
  | trunc
deriving DecidableEq, Repr

/-- The exceptions of the unit (`60_exceptions.md` R201). -/
inductive Cause where
  | invalidBlockSignature
  | shortRead
  | unsupportedChannelEncoding
  | unsupportedSampleFormat
  | ioFailure
  | unsupportedWidth
  | unsupportedBitDepth
  | configError
  | lengthShort
deriving DecidableEq, Repr

/-- Byte memory: the listed (address, byte) pairs, in the canonical form `Memory.wf`. -/
abbrev Memory := List Host.Cell

/-- What an address that is not listed reads as. The bytes of a source are all given by whoever presents it, so
this is the byte the sparse form leaves out, not a guess about a byte nobody wrote. DESIGN CHOICE: log entry 6. -/
def Memory.unlisted : Byte := 0

/-- The canonical form: addresses strictly rising, no entry that reads as an unlisted address does. -/
abbrev Memory.wf (m : Memory) : Prop :=
  m.Pairwise (fun c d => c.1 < d.1) ∧ ∀ c ∈ m, c.2 ≠ Memory.unlisted

/-- SRC (`20_memory.md` R41, R44): the source bytes, SRC_LEN, and the addresses where `io_fault` holds (strictly
rising; log entry 22). -/
structure Source where
  mem : Memory
  len : BitVec 64
  ioFault : List Nat
deriving DecidableEq, Repr

/-- OFFTAB (R12): the entries the host has written since the hardware reset of number `epoch`, index strictly
rising. Any other entry holds a free value of that epoch (R28; log entry 5). -/
structure Offtab where
  epoch : Nat
  written : List (Nat × BitVec 32)
deriving DecidableEq, Repr

/-- The unpacker's registers (R17). -/
structure Unpacker where
  acc : BitVec 40
  nbits : Nat
  payPtr : Nat
  k : Nat
deriving DecidableEq, Repr

/-- The channel buffers CH (R20): the non-empty ones, channel strictly rising. A channel not listed is empty. -/
abbrev ChannelBuffers := List (Nat × List Sample)

/-- One thing the outside world does between two operations of the unit (R180, R240; log entry 7). -/
inductive HostEvent where
  /-- The host does nothing: the unit takes a turn. -/
  | wait
  /-- A 32-bit write to a byte offset of the register map (R26). -/
  | write (offset : Nat) (d : BitVec 32)
  /-- A 32-bit read of a byte offset of the register map (R187). -/
  | read (offset : Nat)
  /-- The consumer takes the next element of OUT (R50). -/
  | takeOut
  /-- The host makes SRC hold these bytes (R253). -/
  | presentSource (bytes : List Byte)
  /-- The host changes one byte of SRC (R42, R58). -/
  | storeSource (a : Nat) (b : Byte)
  /-- The environment makes `io_fault` hold, or not hold, at an address (R44). -/
  | setIoFault (a : Nat) (faulty : Bool)
  /-- Hardware reset (R240). -/
  | hardwareReset
deriving DecidableEq, Repr

/-- The state of the unit and of what it runs in. -/
structure State where
  /-- The parameters of R6, read-only (log entry 1). -/
  par : Params
  /-- SRC, SRC_LEN, io_fault (R41, R44). -/
  src : Source
  /-- The host events still to happen, first first (log entry 7). -/
  host : List HostEvent
  /-- What the last register read returned (R187; log entry 8). -/
  rdata : BitVec 32
  /-- CHANNELS (R11). -/
  channels : BitVec 16
  /-- BITS_PER_SAMPLE (R11). -/
  bitsPerSample : BitVec 16
  /-- NUM_SAMPLES (R11). -/
  numSamples : BitVec 32
  /-- NUM_GROUPS (R11). -/
  numGroups : BitVec 32
  /-- DATA_OFFSET (R11). -/
  dataOffset : BitVec 32
  /-- OFFTAB (R12). -/
  offtab : Offtab
  /-- STATE (R13). -/
  st : Session
  /-- PHASE (R13). -/
  phase : Phase
  /-- G_IDX, a 32-bit index (R13). -/
  gIdx : Nat
  /-- C_IDX, a 16-bit index (R13). -/
  cIdx : Nat
  /-- CUR, the program counter (R14). -/
  cur : BitVec 64
  /-- BASE, i32 (R15). -/
  base : BitVec 32
  /-- BITS, i16 (R15). -/
  bits : BitVec 16
  /-- FLAGS (R15). -/
  flags : BitVec 16
  /-- MODE (R15). -/
  mode : Mode
  /-- W, a 6-bit width, 0 to 32 (R15). -/
  w : Nat
  /-- PAY, the payload buffer of 2048 bytes (R16). -/
  pay : List Byte
  /-- PAY_LEN, a 12-bit count (R16). -/
  payLen : Nat
  /-- ACC, NBITS, PAYPTR, K (R17). -/
  unp : Unpacker
  /-- PREV, i32 (R18). -/
  prev : BitVec 32
  /-- S, the block sample buffer of 512 samples (R19). -/
  sbuf : List Sample
  /-- CH (R20). -/
  ch : ChannelBuffers
  /-- OVERFLOW, a 9-bit count (R21). -/
  overflow : Nat
  /-- F_IDX, a 32-bit counter (R22). -/
  fIdx : Nat
  /-- STATUS.OVF (R23). -/
  ovf : Bool
  /-- STATUS.EXC (R23). -/
  exc : Bool
  /-- ERR_CODE (R24). -/
  errCode : BitVec 4
  /-- ERR_GROUP (R24). -/
  errGroup : BitVec 32
  /-- ERR_CHAN (R24). -/
  errChan : BitVec 16
  /-- ERR_ADDR (R24). -/
  errAddr : BitVec 64
  /-- OUT, in the order of emission (`20_memory.md` R50). -/
  out : List Sample
  /-- How many elements of OUT the consumer has taken (log entry 8). -/
  taken : Nat
  /-- The element the consumer took last (log entry 8). -/
  lastTaken : BitVec 32
  /-- The number of the next draw of free values (log entry 4). -/
  fresh : Nat
deriving DecidableEq, Repr

/-- The stops that are faults. None is raised by an instruction; each is safe, since the model stops. -/
inductive Fault where
  /-- The host stores to, or presents, a source byte at an address SRC does not have (R41). Raised by the host events
  `storeSource` and `presentSource`. Safe. -/
  | sourceAddressAbsent
  /-- The interleaver reads CH[c][f] with f ≥ len(CH[c]), which `20_memory.md` R49 says never happens. Raised by
  INTERLEAVE in states no session reaches. Safe. -/
  | channelReadPastEnd
deriving DecidableEq, Repr

/-- The stops that are refusals. -/
inductive Refusal where
  /-- An instruction whose arm has no meaning yet. Safe. -/
  | notModelled (mnemonic : String)
  /-- The host or the environment changes SRC while BUSY, to which the spec gives no meaning (R256, U8). Raised by the
  host events on SRC. Safe. -/
  | sourceChangedDuringSession
  /-- A register access that is not one aligned word (R26). Raised by the host events `read` and `write`. Safe. -/
  | misalignedBusAccess
deriving DecidableEq, Repr

/-- The `n`-th draw of PAY's unspecified contents (R28). -/
def freePay (n : Nat) : List Byte := (List.range Config.payBytes).map (Config.freePayByte n)

/-- The `n`-th draw of S's unspecified contents (R28). -/
def freeSbuf (n : Nat) : List Sample := (List.range Config.cap).map (Config.freeSample n)

/-- The column "after hardware reset" of R28, in an environment that keeps its source, its pending events and the
consumer's last values (log entry 17). `n` numbers the draw of the unspecified contents. -/
def State.afterHardwareReset (par : Params) (src : Source) (host : List HostEvent) (rdata lastTaken : BitVec 32)
    (n : Nat) : State :=
  { par := par, src := src, host := host, rdata := rdata
    channels := 0, bitsPerSample := 0, numSamples := 0, numGroups := 0, dataOffset := 0
    offtab := { epoch := n, written := [] }
    st := .idle, phase := .seek, gIdx := 0, cIdx := 0, cur := 0
    base := 0, bits := 0, flags := 0, mode := .raw, w := 0
    pay := freePay n, payLen := 0
    unp := { acc := 0, nbits := 0, payPtr := 0, k := 0 }
    prev := 0, sbuf := freeSbuf n, ch := [], overflow := 0, fIdx := 0
    ovf := false, exc := false, errCode := 0, errGroup := 0, errChan := 0, errAddr := 0
    out := [], taken := 0, lastTaken := lastTaken, fresh := n + 1 }

/-- The machine right after power-on: default parameters, no source presented yet, nothing pending. -/
def State.reset : State :=
  State.afterHardwareReset Config.defaultParams { mem := [], len := 0, ioFault := [] } [] 0 0 0

end Sys2Proof.Machine
end

