-- ==== Sys2Proof/Machine/Operands.lean ====
section
/-! DEFINITION. Operand forms: the sign extension of `40_unpacker.md` R104, the wrap of `00_scope.md` R7, the payload
length of `30_encoding.md` R76, the raw samples of R80, and the packed fields of R79 in the closed form of R106. -/

namespace Sys2Proof.Machine

/-- SEXT(field, w) of R104: if bit w − 1 is set, OR in all higher bits; the 32 bits are then read as i32. -/
def sext32 (field w : Nat) : Sample :=
  if field.testBit (w - 1) then BitVec.ofNat 32 (field ||| ((0xFFFFFFFF <<< w) &&& 0xFFFFFFFF))
  else BitVec.ofNat 32 field

/-- `wrap32(x)` of R7: the i32 congruent to `x` modulo 2^32. -/
def wrap32 (x : Int) : Sample := BitVec.ofInt 32 x

/-- BITS_PER_SAMPLE is one of the depths a RAW block can have (R127). -/
def rawDepthLegal (bps : BitVec 16) : Bool := Config.rawDepths.contains bps.toNat

/-- B = BITS_PER_SAMPLE / 8, the bytes of one raw sample (R80). -/
def rawBytes (bps : BitVec 16) : Nat := bps.toNat / 8

/-- PAY_LEN of R76. -/
def payloadLength (mode : Mode) (w : Nat) (bps : BitVec 16) : Nat :=
  match mode with
  | .raw => rawBytes bps * Config.cap
  | .delta => 64 * w
  | .trunc => 64 * w

/-- `n` raw samples of `b` bytes each, back to back from the start of the payload (R80, R130). -/
def rawSamples (b : Nat) : Nat → List Byte → List Sample
  | 0, _ => []
  | n + 1, p => sext32 (leNat (p.take b)) (8 * b) :: rawSamples b n (p.drop b)

/-- field_k of R106: bits k×w to k×w + w − 1 of the payload read as one little-endian number. -/
def packedField (p : List Byte) (w k : Nat) : Nat := (leNat p >>> (k * w)) % 2 ^ w

/-- V[k] of R106, the closed form of what UNPACK yields. -/
def packedValue (p : List Byte) (w k : Nat) : Sample := sext32 (packedField p w k) w

/-- One DELTA addition: wrap32 of the exact sum of two i32 values (R131, R133). -/
def deltaAdd (prev delta : Sample) : Sample := wrap32 (prev.toInt + delta.toInt)

/-- The samples that follow `prev` under the given deltas, one for each delta (R131). -/
def deltaFrom : Sample → List Sample → List Sample
  | _, [] => []
  | prev, v :: vs => deltaAdd prev v :: deltaFrom (deltaAdd prev v) vs

end Sys2Proof.Machine
end

