-- ==== Sys2Proof/Machine/Flags.lean ====
section
/-! DEFINITION. The two sticky flags of the unit and the STATUS word they stand in (`10_state.md` R23). -/

namespace Sys2Proof.Machine

/-- The exact sum of two i32 values leaves the i32 range (`41_block_decode.md` R131, R133). -/
def sumOverflows (prev delta : Sample) : Bool :=
  let x := prev.toInt + delta.toInt
  decide (x < -(2 ^ 31)) || decide (2 ^ 31 - 1 < x)

/-- Some addition of the running sum from `prev` overflows: what OVF is set by (R131). -/
def deltaOverflows : Sample → List Sample → Bool
  | _, [] => false
  | prev, v :: vs => sumOverflows prev v || deltaOverflows (deltaAdd prev v) vs

/-- The two bits of STATUS.STATE (R13, R23). -/
def Session.code : Session → BitVec 2
  | .idle => 0
  | .busy => 1
  | .done => 2
  | .error => 3

/-- STATUS: STATE in bits 1:0, OVF in bit 4, EXC in bit 5, every other bit 0 (R23). -/
def statusWord (st : Session) (ovf exc : Bool) : BitVec 32 :=
  (0 : BitVec 26) ++ BitVec.ofBool exc ++ BitVec.ofBool ovf ++ (0 : BitVec 2) ++ st.code

end Sys2Proof.Machine
end

