-- ==== Sys2Proof/Machine/Ops.lean ====
section
/-! DEFINITION. The named operations over memory, buffers and registers: SRC and MemRead (`20_memory.md` R44),
OFFTAB (R51), the channel buffers (R49), taking an exception (`60_exceptions.md` R210) and the return from one, RESET
(R215, `43_host_commands.md` R185), and hardware reset (`70_reset_and_hazards.md` R240). -/

namespace Sys2Proof.Machine

/-! Byte memory. -/

/-- The byte at address `a`. -/
def Memory.read : Memory → Nat → Byte
  | [], _ => Memory.unlisted
  | c :: m, a => if c.1 = a then c.2 else Memory.read m a

/-- Put `b` at address `a`, keeping the canonical form. -/
def Memory.write : Memory → Nat → Byte → Memory
  | [], a, b => if b = Memory.unlisted then [] else [(a, b)]
  | c :: m, a, b =>
    if a < c.1 then (if b = Memory.unlisted then c :: m else (a, b) :: c :: m)
    else if c.1 = a then (if b = Memory.unlisted then m else (a, b) :: m)
    else c :: Memory.write m a b

/-- `n` consecutive bytes from address `a`, given cells that start no lower than `a`. -/
def Memory.walk : Nat → Memory → Nat → List Byte
  | 0, _, _ => []
  | n + 1, [], a => Memory.unlisted :: Memory.walk n [] (a + 1)
  | n + 1, c :: m, a =>
    if c.1 = a then c.2 :: Memory.walk n m (a + 1) else Memory.unlisted :: Memory.walk n (c :: m) (a + 1)

/-- `n` consecutive bytes from address `a` of a canonical memory, in one pass over its cells. -/
def Memory.readRange (m : Memory) (a n : Nat) : List Byte :=
  Memory.walk n (m.dropWhile fun c => decide (c.1 < a)) a

/-- The cells at addresses `a`, `a + 1`, … of a byte list. -/
def Memory.ofBytes : Nat → List Byte → Memory
  | _, [] => []
  | a, b :: bs => if b = Memory.unlisted then Memory.ofBytes (a + 1) bs else (a, b) :: Memory.ofBytes (a + 1) bs

/-! The source and its read primitive. -/

/-- The least address in `addr .. addr + n` where `io_fault` holds (R44). -/
def leastIoFault (faults : List Nat) (addr n : Nat) : Option Nat :=
  (faults.filter fun a => decide (addr ≤ a) && decide (a < addr + n)).min?

/-- MemRead(addr, n) of R44: the bytes, or the exception with its address. The length test, on exact sums, comes
before the io_fault test. -/
def memRead (src : Source) (addr n : Nat) : Except (Cause × Nat) (List Byte) :=
  if src.len.toNat < addr + n then .error (.shortRead, addr)
  else
    match leastIoFault src.ioFault addr n with
    | some a => .error (.ioFailure, a)
    | none => .ok (Memory.readRange src.mem addr n)

/-- Make `io_fault` hold, or not hold, at an address; the list stays strictly rising. -/
def setFaultAt : List Nat → Nat → Bool → List Nat
  | [], a, faulty => if faulty then [a] else []
  | x :: xs, a, faulty =>
    if a < x then (if faulty then a :: x :: xs else x :: xs)
    else if x = a then (if faulty then x :: xs else xs)
    else x :: setFaultAt xs a faulty

/-! The offset table. -/

/-- The entry the host wrote at index `g`, if it wrote one. -/
def lookupEntry : List (Nat × BitVec 32) → Nat → Option (BitVec 32)
  | [], _ => none
  | e :: es, g => if e.1 = g then some e.2 else lookupEntry es g

/-- Write entry `g`, indices kept strictly rising. -/
def insertEntry : List (Nat × BitVec 32) → Nat → BitVec 32 → List (Nat × BitVec 32)
  | [], g, d => [(g, d)]
  | e :: es, g, d =>
    if g < e.1 then (g, d) :: e :: es
    else if e.1 = g then (g, d) :: es
    else e :: insertEntry es g d

/-- OFFTAB[g] (`20_memory.md` R51); an entry never written since hardware reset is a free value (R28). -/
def Offtab.read (t : Offtab) (g : Nat) : BitVec 32 := (lookupEntry t.written g).getD (Config.freeOfftab t.epoch g)

/-- OFFTAB[g] <- d (`43_host_commands.md` R182). -/
def Offtab.write (t : Offtab) (g : Nat) (d : BitVec 32) : Offtab := { t with written := insertEntry t.written g d }

/-! The channel buffers. -/

/-- The samples of CH[c]; a channel that is not listed is empty. -/
def channel : ChannelBuffers → Nat → List Sample
  | [], _ => []
  | e :: es, c => if e.1 = c then e.2 else channel es c

/-- Append samples to CH[c], in order (`42_assembler.md` R154); channels kept strictly rising, none listed empty. -/
def appendChannel : ChannelBuffers → Nat → List Sample → ChannelBuffers
  | [], c, vs => if vs = [] then [] else [(c, vs)]
  | e :: es, c, vs =>
    if c < e.1 then (if vs = [] then e :: es else (c, vs) :: e :: es)
    else if e.1 = c then (c, e.2 ++ vs) :: es
    else e :: appendChannel es c vs

/-! Taking an exception and returning from one. -/

/-- The numeric cause codes (`60_exceptions.md` R201). -/
def Cause.code : Cause → BitVec 4
  | .invalidBlockSignature => 1
  | .shortRead => 2
  | .unsupportedChannelEncoding => 3
  | .unsupportedSampleFormat => 4
  | .ioFailure => 5
  | .unsupportedWidth => 6
  | .unsupportedBitDepth => 7
  | .configError => 8
  | .lengthShort => 9

/-- `raise E(addr)` of R210: the context is recorded, the channel buffers are cleared, STATE becomes ERROR; nothing
else changes and nothing is saved for resumption. -/
def raise (e : Cause) (addr : Nat) (s : State) : State :=
  { s with
    errCode := e.code
    errGroup := BitVec.ofNat 32 s.gIdx
    errChan := BitVec.ofNat 16 s.cIdx
    errAddr := BitVec.ofNat 64 addr
    ch := []
    st := .error }

/-- The column "after RESET command" of `10_state.md` R28, the only return from ERROR but hardware reset (R215).
Configuration, OFFTAB and OUT are kept; PAY and S are drawn anew. -/
def softReset (s : State) : State :=
  { s with
    st := .idle, phase := .seek, gIdx := 0, cIdx := 0, cur := 0
    base := 0, bits := 0, flags := 0, mode := .raw, w := 0
    pay := freePay s.fresh, payLen := 0
    unp := { acc := 0, nbits := 0, payPtr := 0, k := 0 }
    prev := 0, sbuf := freeSbuf s.fresh, ch := [], overflow := 0, fIdx := 0
    ovf := false, exc := false, errCode := 0, errGroup := 0, errChan := 0, errAddr := 0
    fresh := s.fresh + 1 }

/-- Hardware reset (`70_reset_and_hazards.md` R240): the column "after hardware reset" of R28. -/
def hardwareReset (s : State) : State :=
  State.afterHardwareReset s.par s.src s.host s.rdata s.lastTaken s.fresh

/-! The block's registers. -/

/-- A successful header fetch advances the cursor by 16 (`41_block_decode.md` R121). -/
def consumeHeader (s : State) : State := { s with cur := s.cur + 16 }

/-- The header latch (R123). -/
def latchHeader (base : BitVec 32) (bits flags : BitVec 16) (s : State) : State :=
  { s with base := base, bits := bits, flags := flags }

/-- W, MODE and PAY_LEN, once the header is legal (R120). -/
def setMode (mode : Mode) (w : Nat) (s : State) : State :=
  { s with mode := mode, w := w, payLen := payloadLength mode w s.bitsPerSample }

/-- The payload fetch (R128): one MemRead of PAY_LEN bytes at CUR; on success PAY[0 .. PAY_LEN) holds them and CUR passes
them. DESIGN CHOICE: the bytes of PAY at and past PAY_LEN, of which R16 and R128 say nothing and which no rule reads,
keep their values; log entry 30. -/
def fetchPayload (s : State) : Except (Cause × Nat) State :=
  match memRead s.src s.cur.toNat s.payLen with
  | .error e => .error e
  | .ok bs => .ok { s with pay := bs ++ s.pay.drop bs.length, cur := s.cur + BitVec.ofNat 64 s.payLen }

end Sys2Proof.Machine
end

