-- ==== Sys2Proof/Machine/Unpacker.lean ====
section
/-! DEFINITION. The bitstream unpacker (`40_unpacker.md`): FEED, EXTRACT and the accumulator loop of R105. -/

namespace Sys2Proof.Machine

/-- The unpacker at the start of every payload (R101). -/
def Unpacker.start : Unpacker := { acc := 0, nbits := 0, payPtr := 0, k := 0 }

/-- FEED (R102), given the byte `b` = PAY[PAYPTR]. -/
def feed (b : Byte) (u : Unpacker) : Unpacker :=
  { u with acc := u.acc ||| (b.setWidth 40 <<< u.nbits), nbits := u.nbits + 8, payPtr := u.payPtr + 1 }

/-- The field EXTRACT takes: ACC & ((1 << w) − 1), the mask formed at 40 bits (R103). -/
def extractField (w : Nat) (u : Unpacker) : Nat := (u.acc &&& ((1#40 <<< w) - 1#40)).toNat

/-- What EXTRACT leaves in the unpacker (R103). -/
def extractRest (w : Nat) (u : Unpacker) : Unpacker :=
  { u with acc := u.acc >>> w, nbits := u.nbits - w, k := u.k + 1 }

/-- `while NBITS < w: FEED` (R105). The list holds the payload bytes from PAYPTR on. It does not run out (R107 (d));
if it did, the loop would end (log entry 28). -/
def feedUntil (w : Nat) : List Byte → Unpacker → Unpacker × List Byte
  | [], u => (u, [])
  | b :: bs, u => if u.nbits < w then feedUntil w bs (feed b u) else (u, b :: bs)

/-- `while K < 512` of R105, for `n` fields still to extract. -/
def unpackLoop (w : Nat) : Nat → List Byte → Unpacker → Unpacker × List Sample
  | 0, _, u => (u, [])
  | n + 1, bs, u =>
    let fed := feedUntil w bs u
    let more := unpackLoop w n fed.2 (extractRest w fed.1)
    (more.1, sext32 (extractField w fed.1) w :: more.2)

/-- UNPACK(w) on a payload (R100, R105). -/
def unpack (w : Nat) (pay : List Byte) : Unpacker × List Sample := unpackLoop w Config.cap pay Unpacker.start

end Sys2Proof.Machine
end

