-- ==== Sys2Proof/Machine/Assembler.lean ====
section
/-! DEFINITION. The sample assembler (`42_assembler.md`): OVERFLOW, SEEK, APPEND_BLOCK with trim, CHECK, INTERLEAVE and
the loop control of a session (R150). -/

namespace Sys2Proof.Machine

/-- OVERFLOW = ((N × C) mod 512) div C (R152). -/
def overflowCount (n c : Nat) : Nat := n * c % Config.cap / c

/-- SEEK(g) (R151): the control transfer to the start of a block-group. -/
def seek (s : State) : State :=
  { s with
    cur := s.dataOffset.setWidth 64 + (s.offtab.read s.gIdx).setWidth 64
    cIdx := 0
    phase := .block }

/-- KEEP(i) by TRIM_POLICY (R154 to R157). -/
def keepSample (policy : TrimPolicy) (overflow i : Nat) : Bool :=
  match policy with
  | .dropFirst => decide (overflow ≤ i)
  | .dropLast => decide (i < Config.cap - overflow)
  | .keepFirst => decide (i < overflow)

/-- The samples of a block, from index `i` on, that APPEND_BLOCK appends (R154). -/
def keptSamples (final : Bool) (policy : TrimPolicy) (overflow : Nat) : Nat → List Sample → List Sample
  | _, [] => []
  | i, v :: vs =>
    if !final || keepSample policy overflow i then v :: keptSamples final policy overflow (i + 1) vs
    else keptSamples final policy overflow (i + 1) vs

/-- The block-group being decoded is the final one: G_IDX = G − 1 (R153). -/
def inFinalGroup (s : State) : Bool := decide (s.gIdx + 1 = s.numGroups.toNat)

/-- APPEND_BLOCK(C_IDX, S) (R154). -/
def appendBlock (s : State) : State :=
  { s with
    ch := appendChannel s.ch s.cIdx (keptSamples (inFinalGroup s) s.par.trimPolicy s.overflow 0 s.sbuf) }

/-- The end of a BLOCK (`41_block_decode.md` R120) and the loop control of R150: C_IDX is incremented; when the group's
last channel is done G_IDX is incremented, and the next operation is SEEK or, after the last group, CHECK. -/
def advanceBlock (s : State) : State :=
  if s.cIdx + 1 < s.channels.toNat then { s with cIdx := s.cIdx + 1 }
  else
    { s with
      cIdx := s.cIdx + 1
      gIdx := s.gIdx + 1
      phase := if s.gIdx + 1 < s.numGroups.toNat then .seek else .check }

/-- The first channel that holds fewer than NUM_SAMPLES samples (R159). -/
def firstShortChannel (ch : ChannelBuffers) (n c : Nat) : Option Nat :=
  (List.range c).find? fun i => decide ((channel ch i).length < n)

/-- Some channel holds more than NUM_SAMPLES samples: what EXC is set by (R159). -/
def someChannelExceeds (ch : ChannelBuffers) (n c : Nat) : Bool :=
  (List.range c).any fun i => decide (n < (channel ch i).length)

/-- CHECK (R159): LengthShort at the first short channel, with C_IDX as the channel counter; otherwise EXC is
set if some channel is too long. -/
def check (s : State) : State :=
  match firstShortChannel s.ch s.numSamples.toNat s.channels.toNat with
  | some c => raise .lengthShort s.cur.toNat { s with cIdx := c }
  | none =>
    { s with
      cIdx := if s.channels = 0 then s.cIdx else s.channels.toNat - 1
      exc := s.exc || someChannelExceeds s.ch s.numSamples.toNat s.channels.toNat
      phase := .interleave }

/-- CH[c][f] for `n` channels from `c` on, or nothing if one of them is too short (R160). -/
def frameFrom (ch : ChannelBuffers) (f : Nat) : Nat → Nat → Option (List Sample)
  | 0, _ => some []
  | n + 1, c =>
    match (channel ch c)[f]?, frameFrom ch f n (c + 1) with
    | some v, some vs => some (v :: vs)
    | _, _ => none

/-- Output frame `f`: one sample of every channel, in channel order (R160). -/
def frame (ch : ChannelBuffers) (c f : Nat) : Option (List Sample) := frameFrom ch f c 0

/-- The end of a session (R162): the channel buffers are cleared and STATE becomes DONE. -/
def finishSession (s : State) : State := { s with ch := [], st := .done }

/-- INTERLEAVE (R160), one frame a step: frame F_IDX is emitted, or, after frame N − 1, the session ends. -/
def interleave (s : State) : Host.Outcome State Fault Refusal :=
  if s.fIdx < s.numSamples.toNat then
    match frame s.ch s.channels.toNat s.fIdx with
    | some vs => .next { s with out := s.out ++ vs, fIdx := s.fIdx + 1 }
    | none => .fault .channelReadPastEnd
  else .next (finishSession s)

end Sys2Proof.Machine
end

