-- ==== Sys2Proof/Machine/Block.lean ====
section
/-! DEFINITION. The three stream instructions (`41_block_decode.md` R120, R130 to R132). A meaning is given the state
with CUR at the header's first byte; the header has been fetched, passed its checks and been decoded. -/

namespace Sys2Proof.Machine

/-- The header is consumed and latched (R121, R123). -/
def enterBlock (base : BitVec 32) (bits flags : BitVec 16) (s : State) : State :=
  latchHeader base bits flags (consumeHeader s)

/-- From the payload fetch to the end of BLOCK (R120): a fetch that raises ends the session; otherwise the samples
are decoded into S, appended, and the sequencer advances. -/
def runBlock (decodeSamples : State → State) (s : State) : Host.Outcome State Fault Refusal :=
  match fetchPayload s with
  | .error e => .next (raise e.1 e.2 s)
  | .ok t => .next (advanceBlock (appendBlock (decodeSamples t)))

/-- RAW() (R130): S from the payload at the depth of BITS_PER_SAMPLE. -/
def decodeRaw (s : State) : State :=
  { s with sbuf := rawSamples (rawBytes s.bitsPerSample) Config.cap s.pay }

/-- DELTA() (R131): the running sum from BASE over the first 511 deltas; the last delta is unpacked and not used
(R134). -/
def decodeDelta (s : State) : State :=
  let v := unpack s.w s.pay
  let used := v.2.take (Config.cap - 1)
  let samples := s.base :: deltaFrom s.base used
  { s with
    unp := v.1
    sbuf := samples
    prev := samples.getLastD s.base
    ovf := s.ovf || deltaOverflows s.base used }

/-- TRUNC() (R132): the unpacked fields are the samples. -/
def decodeTrunc (s : State) : State :=
  let v := unpack s.w s.pay
  { s with unp := v.1, sbuf := v.2 }

/-- RAW (R130). BITS_PER_SAMPLE outside 8, 16, 24, 32 raises UnsupportedBitDepth at the header's address, before the
payload is read (R127). -/
def execRaw (base : BitVec 32) (flags : BitVec 16) (s : State) : Host.Outcome State Fault Refusal :=
  let t := enterBlock base 0 flags s
  if rawDepthLegal s.bitsPerSample then runBlock decodeRaw (setMode .raw 0 t)
  else .next (raise .unsupportedBitDepth s.cur.toNat t)

/-- DELTA (R131). -/
def execDelta (base : BitVec 32) (w : Nat) (flags : BitVec 16) (s : State) : Host.Outcome State Fault Refusal :=
  runBlock decodeDelta (setMode .delta w (enterBlock base (BitVec.ofNat 16 w) flags s))

/-- TRUNC (R132). -/
def execTrunc (base : BitVec 32) (w : Nat) (flags : BitVec 16) (s : State) : Host.Outcome State Fault Refusal :=
  runBlock decodeTrunc (setMode .trunc w (enterBlock base (BitVec.ofInt 16 (-(w : Int))) flags s))

end Sys2Proof.Machine
end

