-- ==== Sys2Proof/Machine/HostCommands.lean ====
section
/-! DEFINITION. The host's commands and register accesses (`43_host_commands.md`, `10_state.md` R26, R27): START, RESET,
configuration and offset-table writes, register reads, and the host's hold on SRC and OUT. -/

namespace Sys2Proof.Machine

/-- What START clears before it checks the configuration (R183). -/
def startClears (s : State) : State :=
  { s with
    ovf := false, exc := false, errCode := 0, errGroup := 0, errChan := 0, errAddr := 0
    cur := 0, gIdx := 0, cIdx := 0, fIdx := 0, ch := [] }

/-- Some test of CONFIG_CHECK fires (R184). -/
def configBad (s : State) : Bool :=
  decide (s.channels = 0) || decide (s.par.maxCh < s.channels.toNat)
    || decide (s.par.offtabDepth < s.numGroups.toNat)
    || decide (s.par.chbufDepth < Config.cap * s.numGroups.toNat)

/-- STATE <- BUSY and the start of SESSION (`42_assembler.md` R150): OVERFLOW is computed, and the first operation is
SEEK, or CHECK when there is no block-group. -/
def openSession (s : State) : State :=
  { s with
    st := .busy
    overflow := overflowCount s.numSamples.toNat s.channels.toNat
    phase := if s.numGroups = 0 then .check else .seek }

/-- START (R183): accepted only in IDLE; ConfigError if the configuration is bad. -/
def execStart (s : State) : Host.Outcome State Fault Refusal :=
  if s.st = .idle then
    if configBad s then .next (raise .configError 0 (startClears s))
    else .next (openSession (startClears s))
  else .next s

/-- RESET (R185): ignored while BUSY. -/
def execReset (s : State) : Host.Outcome State Fault Refusal :=
  if s.st = .busy then .next s else .next (softReset s)

/-! The register map. -/

/-- The registers of the map R26. -/
inductive BusReg where
  | ctrl
  | status
  | channels
  | bitsPerSample
  | numSamples
  | numGroups
  | dataOffset
  | errCode
  | errGroup
  | errChan
  | errAddrLo
  | errAddrHi
  | curLo
  | curHi
  | offtab (g : Nat)
  | reserved
deriving DecidableEq, Repr

/-- The register at an aligned byte offset (R26); an OFFTAB index at or above OFFTAB_DEPTH is reserved (R182). -/
def busReg (offtabDepth offset : Nat) : BusReg :=
  match offset with
  | 0x00 => .ctrl
  | 0x04 => .status
  | 0x08 => .channels
  | 0x0C => .bitsPerSample
  | 0x10 => .numSamples
  | 0x14 => .numGroups
  | 0x18 => .dataOffset
  | 0x1C => .errCode
  | 0x20 => .errGroup
  | 0x24 => .errChan
  | 0x28 => .errAddrLo
  | 0x2C => .errAddrHi
  | 0x30 => .curLo
  | 0x34 => .curHi
  | o => if 0x1000 ≤ o ∧ (o - 0x1000) / 4 < offtabDepth then .offtab ((o - 0x1000) / 4) else .reserved

/-- A register read (R187). CTRL and reserved offsets read 0; narrow registers are zero-extended (R26). -/
def readReg (r : BusReg) (s : State) : BitVec 32 :=
  match r with
  | .ctrl => 0
  | .status => statusWord s.st s.ovf s.exc
  | .channels => s.channels.setWidth 32
  | .bitsPerSample => s.bitsPerSample.setWidth 32
  | .numSamples => s.numSamples
  | .numGroups => s.numGroups
  | .dataOffset => s.dataOffset
  | .errCode => s.errCode.setWidth 32
  | .errGroup => s.errGroup
  | .errChan => s.errChan.setWidth 32
  | .errAddrLo => s.errAddr.extractLsb' 0 32
  | .errAddrHi => s.errAddr.extractLsb' 32 32
  | .curLo => s.cur.extractLsb' 0 32
  | .curHi => s.cur.extractLsb' 32 32
  | .offtab g => s.offtab.read g
  | .reserved => 0

/-- A register write other than to CTRL (R181, R182, R27): configuration and OFFTAB writes take effect unless BUSY;
16-bit registers take d[15:0]; read-only and reserved registers ignore it. -/
def writeReg (r : BusReg) (d : BitVec 32) (s : State) : State :=
  if s.st = .busy then s
  else
    match r with
    | .channels => { s with channels := d.setWidth 16 }
    | .bitsPerSample => { s with bitsPerSample := d.setWidth 16 }
    | .numSamples => { s with numSamples := d }
    | .numGroups => { s with numGroups := d }
    | .dataOffset => { s with dataOffset := d }
    | .offtab g => { s with offtab := s.offtab.write g d }
    | .ctrl | .status | .errCode | .errGroup | .errChan | .errAddrLo | .errAddrHi | .curLo | .curHi | .reserved => s

/-- The consumer takes the next element of OUT, if there is one (`20_memory.md` R50). -/
def takeOut (s : State) : State :=
  match s.out[s.taken]? with
  | some v => { s with taken := s.taken + 1, lastTaken := v }
  | none => s

/-- A change of SRC: refused while BUSY (`70_reset_and_hazards.md` R256, U8). -/
def changeSource (src : Source) (s : State) : Host.Outcome State Fault Refusal :=
  if s.st = .busy then .refused .sourceChangedDuringSession else .next { s with src := src }

/-- The host makes SRC hold `bytes`, SRC_LEN their number, io_fault nowhere (R253; log entry 22). -/
def presentSource (bytes : List Byte) (s : State) : Host.Outcome State Fault Refusal :=
  if bytes.length < 2 ^ 64 then
    changeSource { mem := Memory.ofBytes 0 bytes, len := BitVec.ofNat 64 bytes.length, ioFault := [] } s
  else .fault .sourceAddressAbsent

/-- The host changes the source byte at `a` (`20_memory.md` R42, R58). -/
def storeSource (a : Nat) (b : Byte) (s : State) : Host.Outcome State Fault Refusal :=
  if a < s.src.len.toNat then changeSource { s.src with mem := Memory.write s.src.mem a b } s
  else .fault .sourceAddressAbsent

/-- The environment changes `io_fault` at `a` (R44). -/
def setIoFault (a : Nat) (faulty : Bool) (s : State) : Host.Outcome State Fault Refusal :=
  changeSource { s.src with ioFault := setFaultAt s.src.ioFault a faulty } s

end Sys2Proof.Machine
end

