-- ==== Sys2Proof/Machine/Dispatch.lean ====
section
/-! DEFINITION. The meaning of every instruction, one arm each. -/

namespace Sys2Proof.Machine

def exec (i : Instr) (s : State) : Host.Outcome State Fault Refusal :=
  match i with
  | .raw base flags _ => Sys2Proof.Machine.execRaw base flags s
  | .delta base w flags _ => Sys2Proof.Machine.execDelta base w flags s
  | .trunc base w flags _ => Sys2Proof.Machine.execTrunc base w flags s
  | .start _ => Sys2Proof.Machine.execStart s
  | .reset _ _ => Sys2Proof.Machine.execReset s

end Sys2Proof.Machine
end

