-- ==== Sys2Proof/Machine/Fetch.lean ====
section
/-! DEFINITION. What happens next: whose turn it is, and the instruction a turn runs, if it runs one. The host acts
between two operations of the unit (`43_host_commands.md` R180); the unit acts only while BUSY, in the order of
`42_assembler.md` R150. -/

namespace Sys2Proof.Machine

/-- What a turn comes to: an instruction to run in a state, or an outcome already settled. -/
inductive Turn where
  | run (i : Instr) (s : State)
  | settled (o : Host.Outcome State Fault Refusal)

/-- The exception of a faulty header (`30_encoding.md` R82). -/
def HeaderFault.cause : HeaderFault → Cause
  | .invalidBlockSignature => .invalidBlockSignature
  | .unsupportedChannelEncoding => .unsupportedChannelEncoding
  | .unsupportedSampleFormat => .unsupportedSampleFormat
  | .unsupportedWidth => .unsupportedWidth

/-- A header that is no instruction (`41_block_decode.md` R120, R122 to R126): it has been consumed, it is latched unless
its magic is wrong, and the exception names its address. -/
def rejectHeader (f : HeaderFault) (h : BitVec 128) (s : State) : State :=
  let t := consumeHeader s
  let u := if f = .invalidBlockSignature then t else latchHeader (headerBase h) (headerBits h) (headerFlags h) t
  raise (HeaderFault.cause f) s.cur.toNat u

/-- The header fetch (R121) and its decoding (R122 to R126). -/
def blockTurn (s : State) : Turn :=
  match memRead s.src s.cur.toNat Config.headerBytes with
  | .error e => .settled (.next (raise e.1 e.2 s))
  | .ok hdr =>
    match decodeHeader s.par.blockMagic (headerWord hdr) with
    | .ok i => .run i s
    | .error f => .settled (.next (rejectHeader f (headerWord hdr) s))

/-- The unit's turn: the operation PHASE names while BUSY, nothing otherwise (`60_exceptions.md` R219). -/
def unitTurn (s : State) : Turn :=
  match s.st with
  | .idle | .done | .error => .settled (.next s)
  | .busy =>
    match s.phase with
    | .seek => .settled (.next (seek s))
    | .block => blockTurn s
    | .check => .settled (.next (check s))
    | .interleave => .settled (interleave s)

/-- A write to CTRL (`30_encoding.md` R84): the command, or no operation (R186). -/
def ctrlTurn (d : BitVec 32) (s : State) : Turn :=
  match decodeCtrl d with
  | .ok i => .run i s
  | .error _ => .settled (.next s)

/-- A host write to a byte offset (R26, R180). -/
def writeTurn (offset : Nat) (d : BitVec 32) (s : State) : Turn :=
  if offset % 4 = 0 then
    match busReg s.par.offtabDepth offset with
    | .ctrl => ctrlTurn d s
    | r => .settled (.next (writeReg r d s))
  else .settled (.refused .misalignedBusAccess)

/-- A host read of a byte offset (R26, R187). -/
def readTurn (offset : Nat) (s : State) : Turn :=
  if offset % 4 = 0 then .settled (.next { s with rdata := readReg (busReg s.par.offtabDepth offset) s })
  else .settled (.refused .misalignedBusAccess)

/-- One host event, already taken off the list. -/
def hostTurn (e : HostEvent) (s : State) : Turn :=
  match e with
  | .wait => unitTurn s
  | .write offset d => writeTurn offset d s
  | .read offset => readTurn offset s
  | .takeOut => .settled (.next (takeOut s))
  | .presentSource bytes => .settled (presentSource bytes s)
  | .storeSource a b => .settled (storeSource a b s)
  | .setIoFault a faulty => .settled (setIoFault a faulty s)
  | .hardwareReset => .settled (.next (hardwareReset s))

/-- The next turn: the first pending host event, or the unit's when there is none. -/
def nextTurn (s : State) : Turn :=
  match s.host with
  | [] => unitTurn s
  | e :: es => hostTurn e { s with host := es }

end Sys2Proof.Machine
end

