-- ==== Sys2Proof/Machine/Step.lean ====
section
/-! DEFINITION. One step of the machine, and the placing of one instruction where the next step runs it. -/

namespace Sys2Proof.Machine

/-- One step: the next turn, and, when it runs an instruction, that instruction's meaning. -/
def step (s : State) : Host.Outcome State Fault Refusal :=
  match nextTurn s with
  | .run i t => exec i t
  | .settled o => o

/-- The longest instruction: a header and 2048 payload bytes (`30_encoding.md` R76). -/
def longestInstr : Nat := Config.headerBytes + Config.payBytes

/-- SRC with these header bytes, then zeros up to the longest instruction, from address `a` on, all of them present
and readable. -/
def Source.place (src : Source) (a : Nat) (hdr : List Byte) : Source :=
  { mem := src.mem.filter (fun c => decide (c.1 < a)) ++ Memory.ofBytes a hdr
      ++ src.mem.filter (fun c => decide (a + longestInstr ≤ c.1))
    len := if src.len.toNat < a + longestInstr then BitVec.ofNat 64 (a + longestInstr) else src.len
    ioFault := src.ioFault.filter fun x => decide (x < a) || decide (a + longestInstr ≤ x) }

/-- `s` in a session whose next operation is the BLOCK at CUR: what the fetch of a stream instruction needs. The
configuration is kept where it describes such a session, else it is made the least that does (log entry 15). -/
def State.enterSession (s : State) : State :=
  { s with
    host := match s.host with
      | [] => []
      | e :: es => .wait :: e :: es
    st := .busy
    phase := .block
    channels := if s.cIdx < s.channels.toNat then s.channels else BitVec.ofNat 16 (s.cIdx + 1)
    numGroups := if s.gIdx < s.numGroups.toNat then s.numGroups else BitVec.ofNat 32 (s.gIdx + 1)
    bitsPerSample := if rawDepthLegal s.bitsPerSample then s.bitsPerSample else 8 }

/-- The instruction word placed where the next step takes it from: a 32-bit word is the host's next write to CTRL, a
128-bit word is the header at CUR of a session in its BLOCK phase. -/
def State.withFetchWord (s : State) (nbits w : Nat) : State :=
  if nbits = 32 then { s with host := .write 0 (BitVec.ofNat 32 w) :: s.host }
  else
    let t := s.enterSession
    { t with src := t.src.place t.cur.toNat (leBytes Config.headerBytes w) }

end Sys2Proof.Machine
end

