-- ==== Sys2Proof/Machine/HostDriver.lean ====
section
/-! DEFINITION. The host's duties before START (`70_reset_and_hazards.md` R250 to R253): reading the file preamble
(`20_memory.md` R55, R56) and the offset table (R57), and the events that program the unit (R252). The scope file puts
these outside the unit (`00_scope.md` R4); no operation of the unit uses them. -/

namespace Sys2Proof.Machine

/-- The fields of the file preamble (R55). -/
structure FileHeader where
  channels : BitVec 16
  bitsPerSample : BitVec 16
  sampleRate : BitVec 32
  numSamples : BitVec 32
  blocksOffset : BitVec 32
  dataOffset : BitVec 32
  dataSize : BitVec 32
deriving DecidableEq, Repr

/-- Why the host starts no session: a short file; a wrong file magic (`60_exceptions.md` R202); a header whose invariant
fails or that has no block (R56, U16: the spec has no move here). -/
inductive HostError where
  | shortRead
  | invalidFileSignature
  | headerInvariant
  | noBlocks
deriving DecidableEq, Repr

/-- The little-endian number in `n` bytes of a file from offset `a`. -/
def leField (file : List Byte) (a n : Nat) : Nat := leNat ((file.drop a).take n)

/-- The file preamble (R55, R250), the magic tested against the accepted constants. -/
def parseFileHeader (magics : List (BitVec 64)) (file : List Byte) : Except HostError FileHeader :=
  if file.length < Config.fileHeaderBytes then .error .shortRead
  else if magics.contains (BitVec.ofNat 64 (beNat (file.take 8))) then
    .ok
      { channels := BitVec.ofNat 16 (leField file 8 2)
        bitsPerSample := BitVec.ofNat 16 (leField file 10 2)
        sampleRate := BitVec.ofNat 32 (leField file 12 4)
        numSamples := BitVec.ofNat 32 (leField file 16 4)
        blocksOffset := BitVec.ofNat 32 (leField file 20 4)
        dataOffset := BitVec.ofNat 32 (leField file 24 4)
        dataSize := BitVec.ofNat 32 (leField file 28 4) }
  else .error .invalidFileSignature

/-- numBlocks = (dataOffset − blocksOffset) / 4, when the invariant of R56 holds. -/
def numBlocks (h : FileHeader) : Except HostError Nat :=
  if h.dataOffset.toNat < h.blocksOffset.toNat ∨ (h.dataOffset.toNat - h.blocksOffset.toNat) % 4 ≠ 0 then
    .error .headerInvariant
  else .ok ((h.dataOffset.toNat - h.blocksOffset.toNat) / 4)

/-- `n` table entries from file offset `a` on (R57). -/
def tableEntries (file : List Byte) : Nat → Nat → List (BitVec 32)
  | 0, _ => []
  | n + 1, a => BitVec.ofNat 32 (leField file a 4) :: tableEntries file n (a + 4)

/-- The offset table the host loads: the numBlocks − 1 values after the preamble, with 0 before them when
PREPEND_ZERO holds (R57, R251). -/
def offsetTable (prependZero : Bool) (h : FileHeader) (file : List Byte) : Except HostError (List (BitVec 32)) :=
  match numBlocks h with
  | .error e => .error e
  | .ok 0 => .error .noBlocks
  | .ok (n + 1) =>
    if file.length < Config.fileHeaderBytes + 4 * n then .error .shortRead
    else
      let read := tableEntries file n Config.fileHeaderBytes
      .ok (if prependZero then 0 :: read else read)

/-- The writes that load the table from index `g` on (R182). -/
def tableWrites : Nat → List (BitVec 32) → List HostEvent
  | _, [] => []
  | g, d :: ds => .write (0x1000 + 4 * g) d :: tableWrites (g + 1) ds

/-- R252 in its order: RESET, the configuration and the table, the source, START. -/
def programUnit (h : FileHeader) (table : List (BitVec 32)) (file : List Byte) : List HostEvent :=
  [ .write 0x00 2
  , .write 0x08 (h.channels.setWidth 32)
  , .write 0x0C (h.bitsPerSample.setWidth 32)
  , .write 0x10 h.numSamples
  , .write 0x14 (BitVec.ofNat 32 table.length)
  , .write 0x18 h.dataOffset ]
  ++ tableWrites 0 table ++ [ .presentSource file, .write 0x00 1 ]

/-- All the host does with one NCW file, or why it starts no session. -/
def hostSession (magics : List (BitVec 64)) (prependZero : Bool) (file : List Byte) :
    Except HostError (List HostEvent) :=
  match parseFileHeader magics file with
  | .error e => .error e
  | .ok h =>
    match offsetTable prependZero h file with
    | .error e => .error e
    | .ok table => .ok (programUnit h table file)

end Sys2Proof.Machine
end

