-- ==== Sys2Proof/Safety.lean ====
section
/-! DEFINITION. The words claims are stated in: readable source ranges, the canonical forms of the data, the relations
between the sequencer's registers that every step keeps, and what a session depends on. -/

namespace Sys2Proof.Machine

/-- A MemRead of `n` bytes at `a` succeeds (`20_memory.md` R44): the range lies in SRC and `io_fault` holds nowhere
in it. -/
def Readable (src : Source) (a n : Nat) : Prop :=
  a + n ≤ src.len.toNat ∧ ∀ x ∈ src.ioFault, ¬(a ≤ x ∧ x < a + n)

/-- The configuration passes CONFIG_CHECK (`43_host_commands.md` R184). -/
def ConfigGood (s : State) : Prop :=
  s.channels.toNat ≠ 0 ∧ s.channels.toNat ≤ s.par.maxCh ∧ s.numGroups.toNat ≤ s.par.offtabDepth
    ∧ 512 * s.numGroups.toNat ≤ s.par.chbufDepth

/-- SRC and OFFTAB and the channel buffers are in canonical form, and the two fixed buffers are full. -/
structure State.Canonical (s : State) : Prop where
  memory : Memory.wf s.src.mem
  inside : ∀ c ∈ s.src.mem, c.1 < s.src.len.toNat
  faults : s.src.ioFault.Pairwise (· < ·)
  table : s.offtab.written.Pairwise (fun a b => a.1 < b.1)
  tableDepth : ∀ e ∈ s.offtab.written, e.1 < s.par.offtabDepth
  channels : s.ch.Pairwise (fun a b => a.1 < b.1)
  channelsNonempty : ∀ e ∈ s.ch, e.2 ≠ []
  pay : s.pay.length = Config.payBytes
  sbuf : s.sbuf.length = Config.cap

/-- The hidden counts stay in the ranges `10_state.md` gives them (R15 to R17, R21), and bits of ACC at positions ≥
NBITS are 0 (R17). -/
structure State.InRange (s : State) : Prop where
  w : s.w ≤ 32
  payLen : s.payLen ≤ 2048
  nbits : s.unp.nbits ≤ 39
  acc : s.unp.acc.toNat < 2 ^ s.unp.nbits
  payPtr : s.unp.payPtr ≤ 2048
  k : s.unp.k ≤ 512
  overflow : s.overflow ≤ 511

/-- The error registers are 0 whenever STATE is not ERROR (`10_state.md` R24). -/
def State.ErrorsClear (s : State) : Prop :=
  s.st ≠ .error → s.errCode = 0 ∧ s.errGroup = 0 ∧ s.errChan = 0 ∧ s.errAddr = 0

/-- How many samples the final block of a channel contributes (`42_assembler.md` R167). -/
def finalKept (policy : TrimPolicy) (overflow : Nat) : Nat :=
  match policy with
  | .dropFirst => 512 - overflow
  | .dropLast => 512 - overflow
  | .keepFirst => overflow

/-- The length of a channel buffer that has received the blocks of the first `g` of `total` block-groups (R158). -/
def lengthAfter (policy : TrimPolicy) (overflow total g : Nat) : Nat :=
  if g = 0 then 0
  else if g = total then 512 * (g - 1) + finalKept policy overflow
  else 512 * g

/-- The length CH[c] has in the middle of a session: one group more when the block of this group is done. -/
def expectedLength (s : State) (c : Nat) : Nat :=
  lengthAfter s.par.trimPolicy s.overflow s.numGroups.toNat
    (if s.phase = .block ∧ c < s.cIdx then s.gIdx + 1 else s.gIdx)

/-- What holds while BUSY: the configuration passed CONFIG_CHECK, OVERFLOW is the trim count, the indices are in the
ranges of `10_state.md` R13 for the phase, and every channel buffer has the length of R158. -/
structure State.Running (s : State) : Prop where
  config : ConfigGood s
  overflow : s.overflow = overflowCount s.numSamples.toNat s.channels.toNat
  groups : if s.phase = .seek ∨ s.phase = .block then s.gIdx < s.numGroups.toNat else s.gIdx = s.numGroups.toNat
  channelIdx : s.phase = .block → s.cIdx < s.channels.toNat
  channelBound : s.cIdx ≤ s.channels.toNat
  lengths : ∀ c, c < s.channels.toNat → (channel s.ch c).length = expectedLength s c
  checked : s.phase = .interleave → ∀ c, c < s.channels.toNat → s.numSamples.toNat ≤ (channel s.ch c).length
  frames : if s.phase = .interleave then s.fIdx ≤ s.numSamples.toNat else s.fIdx = 0

/-- The relations between the registers of a session (R150), and empty channel buffers outside one (`10_state.md`
R20). -/
def State.Consistent (s : State) : Prop :=
  (s.st = .busy → s.Running) ∧ (s.st ≠ .busy → s.ch = [])

/-- Where CUR can be (`10_state.md` R14): the sum of two 32-bit offsets, past it the blocks of the group done so far,
each at most 16 + 2048 bytes, and so never above 2 × (2^32 − 1) + 65535 × 2064. -/
def State.CursorBounded (s : State) : Prop :=
  s.cur.toNat ≤ 2 * (2 ^ 32 - 1) + 65535 * 2064
    ∧ (s.st = .busy → s.phase = .block →
        s.cIdx < 65535 ∧ s.cur.toNat ≤ 2 * (2 ^ 32 - 1) + s.cIdx * 2064)

/-- The column "after hardware reset" of `10_state.md` R28, the unspecified contents left out. -/
structure AfterHardwareReset (t : State) : Prop where
  sequencer : t.st = .idle ∧ t.phase = .seek ∧ t.gIdx = 0 ∧ t.cIdx = 0 ∧ t.cur = 0
  config : t.channels = 0 ∧ t.bitsPerSample = 0 ∧ t.numSamples = 0 ∧ t.numGroups = 0 ∧ t.dataOffset = 0
  latch : t.base = 0 ∧ t.bits = 0 ∧ t.flags = 0 ∧ t.mode = .raw ∧ t.w = 0
  unpacker : t.payLen = 0 ∧ t.unp.payPtr = 0 ∧ t.unp.k = 0 ∧ t.unp.acc = 0 ∧ t.unp.nbits = 0
  assembler : t.prev = 0 ∧ (∀ c, channel t.ch c = []) ∧ t.overflow = 0 ∧ t.fIdx = 0
  status : t.ovf = false ∧ t.exc = false
  errors : t.errCode = 0 ∧ t.errGroup = 0 ∧ t.errChan = 0 ∧ t.errAddr = 0
  output : t.out = []

/-- The column "after RESET command" of R28, from `s` to `t`, the unspecified contents left out. -/
structure AfterResetCommand (s t : State) : Prop where
  sequencer : t.st = .idle ∧ t.phase = .seek ∧ t.gIdx = 0 ∧ t.cIdx = 0 ∧ t.cur = 0
  config : t.channels = s.channels ∧ t.bitsPerSample = s.bitsPerSample ∧ t.numSamples = s.numSamples ∧
    t.numGroups = s.numGroups ∧ t.dataOffset = s.dataOffset
  table : ∀ g, t.offtab.read g = s.offtab.read g
  latch : t.base = 0 ∧ t.bits = 0 ∧ t.flags = 0 ∧ t.mode = .raw ∧ t.w = 0
  unpacker : t.payLen = 0 ∧ t.unp.payPtr = 0 ∧ t.unp.k = 0 ∧ t.unp.acc = 0 ∧ t.unp.nbits = 0
  assembler : t.prev = 0 ∧ (∀ c, channel t.ch c = []) ∧ t.overflow = 0 ∧ t.fIdx = 0
  status : t.ovf = false ∧ t.exc = false
  errors : t.errCode = 0 ∧ t.errGroup = 0 ∧ t.errChan = 0 ∧ t.errAddr = 0
  output : t.out = s.out

/-- RAW, DELTA and TRUNC, the instructions of format BH (`30_encoding.md` R70). -/
def isStreamInstr : Instr → Bool
  | .raw _ _ _ => true
  | .delta _ _ _ _ => true
  | .trunc _ _ _ _ => true
  | .start _ => false
  | .reset _ _ => false

/-- How many payload bytes follow the header of a stream instruction (`30_encoding.md` R76). -/
def payloadBytes (i : Instr) (s : State) : Nat :=
  match i with
  | .raw _ _ _ => s.bitsPerSample.toNat / 8 * 512
  | .delta _ w _ _ => 64 * w
  | .trunc _ w _ _ => 64 * w
  | .start _ => 0
  | .reset _ _ => 0

/-- The 512 × B or 64 × w payload bytes, read one by one from the header's address plus 16 (R76, R79, R80). -/
def payloadAt (i : Instr) (s : State) : List Byte :=
  (List.range (payloadBytes i s)).map fun j => Memory.read s.src.mem (s.cur.toNat + 16 + j)

/-- A stream instruction executes normally: it is well-formed, RAW has a legal depth (R127), and the payload after the
header at CUR can be read (R128). -/
def StreamReady (i : Instr) (s : State) : Prop :=
  i.wellFormed = true
    ∧ (match i with
      | .raw _ _ _ => s.bitsPerSample.toNat = 8 ∨ s.bitsPerSample.toNat = 16 ∨ s.bitsPerSample.toNat = 24
          ∨ s.bitsPerSample.toNat = 32
      | .delta _ _ _ _ => True
      | .trunc _ _ _ _ => True
      | .start _ => False
      | .reset _ _ => False)
    ∧ Readable s.src (s.cur.toNat + 16) (payloadBytes i s)

/-- The samples of a block that APPEND_BLOCK keeps (`42_assembler.md` R154 to R157). -/
def keptOfBlock (s : State) (samples : List Sample) : List Sample :=
  if s.gIdx + 1 = s.numGroups.toNat then
    match s.par.trimPolicy with
    | .dropFirst => samples.drop s.overflow
    | .dropLast => samples.take (512 - s.overflow)
    | .keepFirst => samples.take s.overflow
  else samples

/-- The unit takes this turn in `u`: no host event is pending, or the pending one is `wait`. -/
def UnitTurnIn (s u : State) : Prop :=
  (s.host = [] ∧ u = s) ∨ ∃ es, s.host = .wait :: es ∧ u = { s with host := es }

/-- STATE is one of the two a session ends in (`70_reset_and_hazards.md` R258). -/
def State.Ended (s : State) : Prop := s.st = .done ∨ s.st = .error

/-- Two states agree on everything a session reads (`70_reset_and_hazards.md` R242): parameters, SRC, configuration,
OFFTAB[0 .. G) and the sequencer, assembler, status and error registers. They may differ in the other entries of
OFFTAB, in OUT, in what the host holds and in the per-block registers of `10_state.md` R15 to R19. -/
def SameSession (s t : State) : Prop :=
  s.par = t.par ∧ s.src = t.src ∧ s.channels = t.channels ∧ s.bitsPerSample = t.bitsPerSample
    ∧ s.numSamples = t.numSamples ∧ s.numGroups = t.numGroups ∧ s.dataOffset = t.dataOffset
    ∧ (∀ g, g < s.numGroups.toNat → s.offtab.read g = t.offtab.read g)
    ∧ s.st = t.st ∧ s.phase = t.phase ∧ s.gIdx = t.gIdx ∧ s.cIdx = t.cIdx ∧ s.cur = t.cur ∧ s.ch = t.ch
    ∧ s.overflow = t.overflow ∧ s.fIdx = t.fIdx ∧ s.ovf = t.ovf ∧ s.exc = t.exc
    ∧ s.errCode = t.errCode ∧ s.errGroup = t.errGroup ∧ s.errChan = t.errChan ∧ s.errAddr = t.errAddr

end Sys2Proof.Machine
end

