-- ==== Sys2Proof/Certificates/Slice0/Obligations.lean ====
section
/-! DEFINITION. The statements for the provers, by the files of spec/. -/

open Sys2Proof Sys2Proof.Machine

/-! Reset (`10_state.md` R28, `70_reset_and_hazards.md` R240). -/

/-- The values R28 gives, in both columns: after power-on, after hardware reset from any state (which keeps the
parameters and the host's source and events, log entry 17), after the RESET command from any state but BUSY; after
power-on, with no host event, nothing happens. -/
def Obligations.ResetTableBothColumns : Prop :=
  AfterHardwareReset State.reset
    ∧ step State.reset = .next State.reset
    ∧ (∀ s es, s.host = .hardwareReset :: es →
        ∃ t, step s = .next t ∧ AfterHardwareReset t ∧ t.host = es ∧ t.src = s.src ∧ t.par = s.par)
    ∧ (∀ s b x, s.st ≠ .busy → ∃ t, exec (.reset b x) s = .next t ∧ AfterResetCommand s t)

/-- R185: RESET completes from any state: while BUSY it does nothing, else every element takes its value of R28, and
the configuration, OFFTAB, SRC, OUT and the parameters stay, the model's own fields of log entries 7 and 8 too. -/
def Obligations.ResetCommandCompletes : Prop :=
  ∀ (b : Bool) (x : BitVec 30) (s : State),
    (s.st = .busy → exec (.reset b x) s = .next s) ∧
    (s.st ≠ .busy → ∃ t, exec (.reset b x) s = .next t ∧ AfterResetCommand s t ∧ t.par = s.par ∧ t.host = s.host
      ∧ t.rdata = s.rdata ∧ t.taken = s.taken ∧ t.lastTaken = s.lastTaken
      ∧ t.src.len = s.src.len ∧ t.src.ioFault = s.src.ioFault
      ∧ ∀ a, Memory.read t.src.mem a = Memory.read s.src.mem a)

/-! Encoding (`30_encoding.md`). -/

/-- Decoding the word of a well-formed instruction gives the instruction back, under every BLOCK_MAGIC. -/
def Obligations.DecodeEncodeRoundTrip : Prop :=
  ∀ (magic : BitVec 32) (i : Instr), i.wellFormed = true → decode magic (encode magic i) = .ok i

/-- Every word that decodes is the word of its instruction, and the instruction is well-formed: each word has one
meaning and no bit of it is dropped. -/
def Obligations.EncodeDecodeRoundTrip : Prop :=
  ∀ (magic : BitVec 32) (x : InstrWord) (i : Instr),
    decode magic x = .ok i → i.wellFormed = true ∧ encode magic i = x

/-- R81 on the header bytes themselves: the magic is big-endian in h0 to h3, the fields little-endian at bytes 4, 8
and 10 (R71, R45), and the seven cases come in the order of R81 and exclude each other. -/
def Obligations.HeaderBytesDecode : Prop :=
  ∀ (magic : BitVec 32) (hdr : List Byte), hdr.length = 16 →
    let base := BitVec.ofNat 32 (leNat ((hdr.drop 4).take 4))
    let bits := (BitVec.ofNat 16 (leNat ((hdr.drop 8).take 2))).toInt
    let flags := BitVec.ofNat 16 (leNat ((hdr.drop 10).take 2))
    let reserved := BitVec.ofNat 32 (leNat (hdr.drop 12))
    let result := decodeHeader magic (headerWord hdr)
    (beNat (hdr.take 4) ≠ magic.toNat → result = .error .invalidBlockSignature) ∧
    (beNat (hdr.take 4) = magic.toNat → flags.getLsbD 0 = true → result = .error .unsupportedChannelEncoding) ∧
    (beNat (hdr.take 4) = magic.toNat → flags.getLsbD 0 = false → flags.getLsbD 1 = true →
      result = .error .unsupportedSampleFormat) ∧
    (beNat (hdr.take 4) = magic.toNat → flags.getLsbD 0 = false → flags.getLsbD 1 = false →
      (bits = 0 → result = .ok (.raw base flags reserved)) ∧
      (1 ≤ bits → bits ≤ 32 → result = .ok (.delta base bits.toNat flags reserved)) ∧
      (-32 ≤ bits → bits ≤ -1 → result = .ok (.trunc base (-bits).toNat flags reserved)) ∧
      (bits < -32 ∨ 32 < bits → result = .error .unsupportedWidth))

/-- R84: d[1] = 1 is RESET whatever d[0] is, d[1:0] = 0b01 is START, d[1:0] = 0b00 is no operation; d[31:2] changes no
effect. -/
def Obligations.CtrlWordDecode : Prop :=
  ∀ d : BitVec 32,
    (d.getLsbD 1 = true → ∃ x, decodeCtrl d = .ok (.reset (d.getLsbD 0) x)) ∧
    (d.getLsbD 1 = false → d.getLsbD 0 = true → ∃ x, decodeCtrl d = .ok (.start x)) ∧
    (d.getLsbD 1 = false → d.getLsbD 0 = false → decodeCtrl d = .error .noOperation) ∧
    (∀ b x y s, exec (.reset b x) s = exec (.reset true y) s ∧ exec (.start x) s = exec (.start y) s)

/-- Words written out from the vectors V-B1, V-B5, V-B11, V-B12, V-H3, V-H4, V-H5 of `95_test_vectors.md`. The header
words are decoded under the default BLOCK_MAGIC, which is PRESUMED (G1 of `93_implementation_defined.md`, log entry
2). -/
def Obligations.VectorWordsDecode : Prop :=
  decodeTableWord 128 0x0000000000000000000000003E9A0C16 = some (.raw 0 0 0)
    ∧ decodeTableWord 128 0x0000000000000004000000643E9A0C16 = some (.delta 100 4 0 0)
    ∧ decodeTableWord 128 0x000000000000FFF4000000003E9A0C16 = some (.trunc 0 12 0 0)
    ∧ decodeTableWord 128 0xEFBEADDEFFFCFFE0FFFFFFFF3E9A0C16 = some (.trunc 0xFFFFFFFF 32 0xFFFC 0xEFBEADDE)
    ∧ decodeTableWord 32 0xFFFFFFFD = some (.start 0x3FFFFFFF)
    ∧ decodeTableWord 32 0x00000003 = some (.reset true 0)
    ∧ decodeTableWord 32 0x00000004 = none

/-! Memory (`20_memory.md`). -/

/-- R44: the length test on exact sums, then the least faulty address, then the bytes at consecutive addresses. -/
def Obligations.MemReadAnswers : Prop :=
  ∀ (src : Source) (a n : Nat), Memory.wf src.mem →
    (src.len.toNat < a + n → memRead src a n = .error (.shortRead, a)) ∧
    (a + n ≤ src.len.toNat → (∃ x ∈ src.ioFault, a ≤ x ∧ x < a + n) →
      ∃ m ∈ src.ioFault, a ≤ m ∧ m < a + n ∧ (∀ x ∈ src.ioFault, a ≤ x → x < a + n → m ≤ x)
        ∧ memRead src a n = .error (.ioFailure, m)) ∧
    (Readable src a n → memRead src a n = .ok ((List.range n).map fun i => Memory.read src.mem (a + i)))

/-- R42, R43: a step taken while BUSY changes neither a byte of SRC nor SRC_LEN nor io_fault. Where that step is a
hardware reset, that the host's source survives it is the model's choice, log entry 17. -/
def Obligations.SourceFixedWhileBusy : Prop :=
  ∀ s t : State, s.st = .busy → step s = .next t →
    t.src.len = s.src.len ∧ t.src.ioFault = s.src.ioFault ∧ ∀ a, Memory.read t.src.mem a = Memory.read s.src.mem a

/-- Outside a session the host's bytes are what SRC then holds (R41, R42, R253), and io_fault holds or not at an
address as the environment then says, nowhere else changed (R44); a change while BUSY is refused (R256, U8). That a
newly presented source has io_fault nowhere, and the rising list that holds io_fault, are the model's choice, log
entry 22; the fault at an address SRC does not have, and for a source of 2^64 bytes or more, is the model's stop, log
entry 10. -/
def Obligations.HostWritesSource : Prop :=
  ∀ (s : State) (es : List HostEvent), Memory.wf s.src.mem →
    (∀ bytes, s.host = .presentSource bytes :: es → bytes.length < 2 ^ 64 →
      (s.st = .busy → step s = .refused .sourceChangedDuringSession) ∧
      (s.st ≠ .busy → ∃ t, step s = .next t ∧ t.src.len.toNat = bytes.length ∧ t.src.ioFault = []
        ∧ (∀ i, i < bytes.length → bytes[i]? = some (Memory.read t.src.mem i))
        ∧ t = { s with host := es, src := t.src })) ∧
    (∀ a b, s.host = .storeSource a b :: es → a < s.src.len.toNat →
      (s.st = .busy → step s = .refused .sourceChangedDuringSession) ∧
      (s.st ≠ .busy → ∃ t, step s = .next t ∧ Memory.read t.src.mem a = b
        ∧ (∀ x, x ≠ a → Memory.read t.src.mem x = Memory.read s.src.mem x)
        ∧ t.src.len = s.src.len ∧ t.src.ioFault = s.src.ioFault ∧ t = { s with host := es, src := t.src })) ∧
    (∀ a b, s.host = .storeSource a b :: es → s.src.len.toNat ≤ a → step s = .fault .sourceAddressAbsent) ∧
    (∀ bytes, s.host = .presentSource bytes :: es → 2 ^ 64 ≤ bytes.length → step s = .fault .sourceAddressAbsent) ∧
    (∀ a y, s.host = .setIoFault a y :: es → s.src.ioFault.Pairwise (· < ·) →
      (s.st = .busy → step s = .refused .sourceChangedDuringSession) ∧
      (s.st ≠ .busy → ∃ t, step s = .next t ∧ (a ∈ t.src.ioFault ↔ y = true)
        ∧ (∀ x, x ≠ a → (x ∈ t.src.ioFault ↔ x ∈ s.src.ioFault))
        ∧ t.src.len = s.src.len ∧ (∀ x, Memory.read t.src.mem x = Memory.read s.src.mem x)
        ∧ t = { s with host := es, src := t.src }))

/-- R50: the consumer takes the elements of OUT in order and changes nothing of the unit. How the model holds what was
taken is log entries 8 and 24. -/
def Obligations.OutConsumedInOrder : Prop :=
  ∀ (s : State) (es : List HostEvent), s.host = .takeOut :: es →
    (∀ v, s.out[s.taken]? = some v → step s = .next { s with host := es, taken := s.taken + 1, lastTaken := v }) ∧
    (s.out.length ≤ s.taken → step s = .next { s with host := es })

/-! The unpacker (`40_unpacker.md`). -/

/-- R104: SEXT is the two's-complement reading of a w-bit field, and its result fits w bits. -/
def Obligations.SextIsTwosComplement : Prop :=
  ∀ field w : Nat, 1 ≤ w → w ≤ 32 → field < 2 ^ w →
    (field.testBit (w - 1) = true → (sext32 field w).toInt = (field : Int) - 2 ^ w) ∧
    (field.testBit (w - 1) = false → (sext32 field w).toInt = (field : Int)) ∧
    -(2 ^ (w - 1)) ≤ (sext32 field w).toInt ∧ (sext32 field w).toInt ≤ 2 ^ (w - 1) - 1

/-- R102, R103 as exact arithmetic on the accumulator: FEED adds the byte above the valid bits, EXTRACT takes the low
w bits and shifts them out. -/
def Obligations.FeedAndExtractExact : Prop :=
  (∀ (b : Byte) (u : Unpacker), u.nbits ≤ 31 → u.acc.toNat < 2 ^ u.nbits →
    (feed b u).acc.toNat = u.acc.toNat + b.toNat * 2 ^ u.nbits ∧ (feed b u).nbits = u.nbits + 8
      ∧ (feed b u).payPtr = u.payPtr + 1 ∧ (feed b u).k = u.k) ∧
  (∀ (w : Nat) (u : Unpacker), 1 ≤ w → w ≤ 32 →
    extractField w u = u.acc.toNat % 2 ^ w ∧ (extractRest w u).acc.toNat = u.acc.toNat / 2 ^ w
      ∧ (extractRest w u).nbits = u.nbits - w ∧ (extractRest w u).k = u.k + 1
      ∧ (extractRest w u).payPtr = u.payPtr)

/-- R106: the accumulator loop of R105 yields the closed form, field k being payload bits k×w to k×w + w − 1. -/
def Obligations.UnpackLoopIsClosedForm : Prop :=
  ∀ (w : Nat) (pay : List Byte), 1 ≤ w → w ≤ 32 → 64 * w ≤ pay.length →
    (unpack w pay).2 = (List.range 512).map fun k => packedValue (pay.take (64 * w)) w k

/-- R107 (e): at exit the payload is consumed exactly, by 64 × w FEEDs and 512 EXTRACTs. -/
def Obligations.UnpackConsumesPayloadExactly : Prop :=
  ∀ (w : Nat) (pay : List Byte), 1 ≤ w → w ≤ 32 → 64 * w ≤ pay.length →
    (unpack w pay).1.k = 512 ∧ (unpack w pay).1.payPtr = 64 * w ∧ (unpack w pay).1.nbits = 0
      ∧ (unpack w pay).1.acc = 0

/-- R46: bit i of packed field k is payload bit k×w + i, and payload bit j is bit j mod 8 of payload byte j div 8. -/
def Obligations.PackedBitsAreLsbFirst : Prop :=
  ∀ (pay : List Byte) (w k i : Nat), i < w → (k * w + i) / 8 < pay.length →
    (packedField pay w k).testBit i = (pay.getD ((k * w + i) / 8) 0).getLsbD ((k * w + i) % 8)

/-! The stream instructions (`41_block_decode.md`). -/

/-- R130: RAW completes when its depth is legal and its payload readable. Sample i is the sign-extended little-endian
integer of B bytes at payload offset i × B; the unpacker is not used and OVF not written. That the header latch, W,
MODE, PAY_LEN and CUR hold the block's values is R120; that the unpacker's registers and PREV keep theirs is the
model's inference, log entry 18. -/
def Obligations.RawCompletes : Prop :=
  ∀ (base : BitVec 32) (flags : BitVec 16) (r : BitVec 32) (s : State),
    StreamReady (.raw base flags r) s → Memory.wf s.src.mem →
    let b := s.bitsPerSample.toNat / 8
    ∃ t, exec (.raw base flags r) s = .next t
      ∧ t.sbuf = (List.range 512).map (fun i => sext32
          (leNat ((List.range b).map fun j => Memory.read s.src.mem (s.cur.toNat + 16 + i * b + j))) (8 * b))
      ∧ t.cur.toNat = s.cur.toNat + 16 + 512 * b
      ∧ t.base = base ∧ t.bits = 0 ∧ t.flags = flags ∧ t.mode = .raw ∧ t.w = 0 ∧ t.payLen = 512 * b
      ∧ t.pay.take t.payLen = payloadAt (.raw base flags r) s
      ∧ t.unp = s.unp ∧ t.prev = s.prev ∧ t.ovf = s.ovf

/-- R131, R133: DELTA completes when its payload is readable. S[i] = wrap32(BASE + V[0] + … + V[i−1]); OVF is set
exactly when one of the 511 exact sums leaves the i32 range. That the header latch, W, MODE, PAY_LEN and CUR hold the
block's values is R120, that UNPACK ends with K = 512, PAYPTR = 64 × w, NBITS = 0 and ACC = 0 is R107 (e); that the
unpacker's registers and PREV = S[511] still hold these after the block is the model's inference, log entry 18. -/
def Obligations.DeltaCompletes : Prop :=
  ∀ (base : BitVec 32) (w : Nat) (flags : BitVec 16) (r : BitVec 32) (s : State),
    StreamReady (.delta base w flags r) s → Memory.wf s.src.mem →
    let v := packedValue (payloadAt (.delta base w flags r) s) w
    let sample := fun i => wrap32 (base.toInt + ((List.range i).map fun k => (v k).toInt).sum)
    ∃ t, exec (.delta base w flags r) s = .next t
      ∧ t.sbuf = (List.range 512).map sample
      ∧ t.prev = sample 511
      ∧ (t.ovf = true ↔ s.ovf = true ∨
          ∃ i, i < 511 ∧ ((sample i).toInt + (v i).toInt < -(2 ^ 31) ∨ 2 ^ 31 - 1 < (sample i).toInt + (v i).toInt))
      ∧ t.cur.toNat = s.cur.toNat + 16 + 64 * w
      ∧ t.base = base ∧ t.bits.toInt = w ∧ t.flags = flags ∧ t.mode = .delta ∧ t.w = w ∧ t.payLen = 64 * w
      ∧ t.pay.take t.payLen = payloadAt (.delta base w flags r) s
      ∧ t.unp.k = 512 ∧ t.unp.payPtr = 64 * w ∧ t.unp.nbits = 0 ∧ t.unp.acc = 0

/-- R132: TRUNC completes when its payload is readable. S[i] = V[i], and OVF is not written. That the header latch, W,
MODE, PAY_LEN and CUR hold the block's values is R120, that UNPACK ends with K = 512, PAYPTR = 64 × w, NBITS = 0 and
ACC = 0 is R107 (e); that the unpacker's registers still hold these after the block and that PREV keeps its value is
the model's inference, log entry 18. -/
def Obligations.TruncCompletes : Prop :=
  ∀ (base : BitVec 32) (w : Nat) (flags : BitVec 16) (r : BitVec 32) (s : State),
    StreamReady (.trunc base w flags r) s → Memory.wf s.src.mem →
    ∃ t, exec (.trunc base w flags r) s = .next t
      ∧ t.sbuf = (List.range 512).map (packedValue (payloadAt (.trunc base w flags r) s) w)
      ∧ t.cur.toNat = s.cur.toNat + 16 + 64 * w
      ∧ t.base = base ∧ t.bits.toInt = -(w : Int) ∧ t.flags = flags ∧ t.mode = .trunc ∧ t.w = w
      ∧ t.payLen = 64 * w
      ∧ t.pay.take t.payLen = payloadAt (.trunc base w flags r) s
      ∧ t.unp.k = 512 ∧ t.unp.payPtr = 64 * w ∧ t.unp.nbits = 0 ∧ t.unp.acc = 0
      ∧ t.prev = s.prev ∧ t.ovf = s.ovf

/-- R120, R150, R154: a stream instruction that executes normally appends the kept samples of S to CH[C_IDX] alone and
moves the sequencer on; STATE and the error registers stay. -/
def Obligations.BlockAppendsAndAdvances : Prop :=
  ∀ (i : Instr) (s : State), StreamReady i s → s.ch.Pairwise (fun a b => a.1 < b.1) →
    ∃ t, exec i s = .next t
      ∧ (∀ c, channel t.ch c = if c = s.cIdx then channel s.ch c ++ keptOfBlock s t.sbuf else channel s.ch c)
      ∧ t.sbuf.length = 512
      ∧ t.cIdx = s.cIdx + 1
      ∧ (s.cIdx + 1 < s.channels.toNat → t.gIdx = s.gIdx ∧ t.phase = s.phase)
      ∧ (s.channels.toNat ≤ s.cIdx + 1 → t.gIdx = s.gIdx + 1
          ∧ t.phase = if s.gIdx + 1 < s.numGroups.toNat then .seek else .check)
      ∧ t.st = s.st ∧ t.errCode = s.errCode ∧ t.errGroup = s.errGroup ∧ t.errChan = s.errChan
      ∧ t.errAddr = s.errAddr

/-- The frame of RAW, DELTA and TRUNC, whether they complete or raise: what none of them writes; what RAW and TRUNC do
not write; and what a raise leaves besides. SRC is never stored to (R43, R137). That RAW leaves the unpacker's
registers and that RAW and TRUNC leave PREV is the model's inference, log entry 18; that a raise leaves PHASE and the
indices is its inference from R210, log entry 19. -/
def Obligations.StreamFrame : Prop :=
  ∀ (i : Instr) (s t : State), isStreamInstr i = true → exec i s = .next t →
    t.par = s.par ∧ t.host = s.host ∧ t.rdata = s.rdata ∧ t.channels = s.channels
      ∧ t.bitsPerSample = s.bitsPerSample ∧ t.numSamples = s.numSamples ∧ t.numGroups = s.numGroups
      ∧ t.dataOffset = s.dataOffset ∧ (∀ g, t.offtab.read g = s.offtab.read g) ∧ t.overflow = s.overflow
      ∧ t.fIdx = s.fIdx ∧ t.exc = s.exc ∧ t.out = s.out ∧ t.taken = s.taken ∧ t.lastTaken = s.lastTaken
      ∧ t.src.len = s.src.len ∧ t.src.ioFault = s.src.ioFault
      ∧ (∀ a, Memory.read t.src.mem a = Memory.read s.src.mem a)
      ∧ ((∃ base flags r, i = .raw base flags r) → t.unp = s.unp)
      ∧ (¬(∃ base w flags r, i = .delta base w flags r) → t.prev = s.prev ∧ t.ovf = s.ovf)
      ∧ (s.st ≠ .error → t.st = .error →
          t.pay = s.pay ∧ t.sbuf = s.sbuf ∧ t.unp = s.unp ∧ t.prev = s.prev ∧ t.ovf = s.ovf
            ∧ t.gIdx = s.gIdx ∧ t.cIdx = s.cIdx ∧ t.phase = s.phase)

/-- R127, R120: RAW at any other depth raises UnsupportedBitDepth at the header's address, the header consumed and
latched, nothing of the payload read. That W, MODE and PAY_LEN keep their values is the model's inference from the
order of R120, log entry 13. -/
def Obligations.RawOtherDepthRaises : Prop :=
  ∀ (base : BitVec 32) (flags : BitVec 16) (r : BitVec 32) (s : State),
    s.bitsPerSample.toNat ≠ 8 → s.bitsPerSample.toNat ≠ 16 → s.bitsPerSample.toNat ≠ 24 →
    s.bitsPerSample.toNat ≠ 32 →
    exec (.raw base flags r) s =
      .next { s with
        cur := s.cur + 16, base := base, bits := 0, flags := flags
        errCode := 7, errGroup := BitVec.ofNat 32 s.gIdx, errChan := BitVec.ofNat 16 s.cIdx, errAddr := s.cur
        ch := [], st := .error }

/-- R128, R213: a payload that cannot be read raises, ShortRead before IoFailure; CUR stands at the payload's first
byte; no sample of the block exists. -/
def Obligations.PayloadFetchRaises : Prop :=
  ∀ (i : Instr) (s : State), isStreamInstr i = true → i.wellFormed = true →
    ((∃ base flags r, i = .raw base flags r) → rawDepthLegal s.bitsPerSample = true) →
    s.cur.toNat + 16 ≤ s.src.len.toNat →
    (s.src.len.toNat < s.cur.toNat + 16 + payloadBytes i s →
      ∃ t, exec i s = .next t ∧ t.st = .error ∧ t.errCode = 2 ∧ t.errAddr.toNat = s.cur.toNat + 16
        ∧ t.errGroup = BitVec.ofNat 32 s.gIdx ∧ t.errChan = BitVec.ofNat 16 s.cIdx
        ∧ t.cur.toNat = s.cur.toNat + 16 ∧ (∀ c, channel t.ch c = []) ∧ t.sbuf = s.sbuf) ∧
    (s.cur.toNat + 16 + payloadBytes i s ≤ s.src.len.toNat →
      ∀ m ∈ s.src.ioFault, s.cur.toNat + 16 ≤ m → m < s.cur.toNat + 16 + payloadBytes i s →
      (∀ x ∈ s.src.ioFault, s.cur.toNat + 16 ≤ x → x < s.cur.toNat + 16 + payloadBytes i s → m ≤ x) →
      ∃ t, exec i s = .next t ∧ t.st = .error ∧ t.errCode = 5 ∧ t.errAddr.toNat = m
        ∧ t.errGroup = BitVec.ofNat 32 s.gIdx ∧ t.errChan = BitVec.ofNat 16 s.cIdx
        ∧ t.cur.toNat = s.cur.toNat + 16 ∧ (∀ c, channel t.ch c = []) ∧ t.sbuf = s.sbuf)

/-- R121: a header that cannot be read raises, in every turn of the unit, with CUR and the latch unchanged. -/
def Obligations.HeaderFetchRaises : Prop :=
  ∀ s u : State, UnitTurnIn s u → u.st = .busy → u.phase = .block →
    (u.src.len.toNat < u.cur.toNat + 16 → step s = .next (raise .shortRead u.cur.toNat u)) ∧
    (u.cur.toNat + 16 ≤ u.src.len.toNat →
      ∀ m ∈ u.src.ioFault, u.cur.toNat ≤ m → m < u.cur.toNat + 16 →
      (∀ x ∈ u.src.ioFault, u.cur.toNat ≤ x → x < u.cur.toNat + 16 → m ≤ x) →
      step s = .next (raise .ioFailure m u))

/-- R122 to R126: a readable header that is no instruction raises the exception of R81 at the header's address; the
header is consumed, and latched unless its magic is wrong; no payload is read. So in every turn of the unit. That
PAY_LEN, MODE and W keep their values is the model's inference from the order of R120, log entry 13. -/
def Obligations.FaultyHeaderRaises : Prop :=
  ∀ (s u : State) (hdr : List Byte) (f : HeaderFault), UnitTurnIn s u → u.st = .busy → u.phase = .block →
    memRead u.src u.cur.toNat 16 = .ok hdr → decodeHeader u.par.blockMagic (headerWord hdr) = .error f →
    ∃ t, step s = .next t ∧ t.st = .error
      ∧ t.errCode =
          (match f with
          | .invalidBlockSignature => 1
          | .unsupportedChannelEncoding => 3
          | .unsupportedSampleFormat => 4
          | .unsupportedWidth => 6)
      ∧ t.errAddr = u.cur ∧ t.errGroup = BitVec.ofNat 32 u.gIdx ∧ t.errChan = BitVec.ofNat 16 u.cIdx
      ∧ t.cur.toNat = u.cur.toNat + 16 ∧ (∀ c, channel t.ch c = [])
      ∧ (f = .invalidBlockSignature → t.base = u.base ∧ t.bits = u.bits ∧ t.flags = u.flags)
      ∧ (f ≠ .invalidBlockSignature → t.base = BitVec.ofNat 32 (leNat ((hdr.drop 4).take 4))
          ∧ t.bits = BitVec.ofNat 16 (leNat ((hdr.drop 8).take 2))
          ∧ t.flags = BitVec.ofNat 16 (leNat ((hdr.drop 10).take 2)))
      ∧ t.pay = u.pay ∧ t.payLen = u.payLen ∧ t.mode = u.mode ∧ t.w = u.w ∧ t.sbuf = u.sbuf ∧ t.out = u.out

/-- R243: the samples of a block depend only on its own header and payload bytes and, for RAW, on BITS_PER_SAMPLE. Two
states that agree on those decode the same S, and DELTA ends with the same PREV. -/
def Obligations.BlockSamplesDependOnOwnBytes : Prop :=
  ∀ (i : Instr) (s s' t t' : State), StreamReady i s → StreamReady i s' → Memory.wf s.src.mem →
    Memory.wf s'.src.mem → ((∃ base flags r, i = .raw base flags r) → s.bitsPerSample = s'.bitsPerSample) →
    payloadAt i s = payloadAt i s' → exec i s = .next t → exec i s' = .next t' →
    t.sbuf = t'.sbuf ∧ ((∃ base w flags r, i = .delta base w flags r) → t.prev = t'.prev)

/-! The assembler (`42_assembler.md`). -/

/-- R151: SEEK sets CUR to the exact sum of the two 32-bit offsets, which never wraps, sets C_IDX to 0 and reads
nothing of SRC; the BLOCK phase follows (R150). -/
def Obligations.SeekSetsCursor : Prop :=
  ∀ s u : State, UnitTurnIn s u → u.st = .busy → u.phase = .seek →
    ∃ t, step s = .next t ∧ t.cur.toNat = u.dataOffset.toNat + (u.offtab.read u.gIdx).toNat
      ∧ t.cur.toNat ≤ 2 ^ 33 - 2 ∧ t = { u with cur := t.cur, cIdx := 0, phase := .block }

/-- R152: the trim count, its bounds and its values. -/
def Obligations.OverflowFormulaValues : Prop :=
  (∀ n c, 1 ≤ c → overflowCount n c = ((n * c) % 512) / c ∧ overflowCount n c ≤ 511 / c ∧ overflowCount n c ≤ 511) ∧
  (∀ n k, k ≤ 9 → overflowCount n (2 ^ k) = n % (512 / 2 ^ k)) ∧
  (∀ n c, 511 < c → overflowCount n c = 0) ∧
  overflowCount 1000 3 = 146

/-- R154 to R157, R167: outside the final group all samples are kept; in it, the three policies drop the first, drop
the last, and keep the first OVERFLOW samples. -/
def Obligations.TrimPoliciesKeep : Prop :=
  ∀ (samples : List Sample) (n : Nat), samples.length = 512 → n ≤ 511 →
    (∀ p, keptSamples false p n 0 samples = samples) ∧
    keptSamples true .dropFirst n 0 samples = samples.drop n ∧
    keptSamples true .dropLast n 0 samples = samples.take (512 - n) ∧
    keptSamples true .keepFirst n 0 samples = samples.take n ∧
    (keptSamples true .dropFirst n 0 samples).length = 512 - n ∧
    (keptSamples true .dropLast n 0 samples).length = 512 - n ∧
    (keptSamples true .keepFirst n 0 samples).length = n

/-- R159, R220: CHECK raises LengthShort for the first channel that is too short, with ERR_CHAN its index and ERR_ADDR
= CUR, and emits nothing. -/
def Obligations.CheckShortRaises : Prop :=
  ∀ (s u : State) (c : Nat), UnitTurnIn s u → u.st = .busy → u.phase = .check → c < u.channels.toNat →
    (channel u.ch c).length < u.numSamples.toNat →
    (∀ d, d < c → u.numSamples.toNat ≤ (channel u.ch d).length) →
    step s = .next { u with
      cIdx := c, errCode := 9, errGroup := BitVec.ofNat 32 u.gIdx, errChan := BitVec.ofNat 16 c, errAddr := u.cur
      ch := [], st := .error }

/-- R159: when no channel is too short CHECK goes on to INTERLEAVE, and sets EXC exactly when some channel is too long
or it was set before. That C_IDX ends at CHANNELS − 1 is the model's inference from the loops of R159, log entry 19.
CHANNELS = 0, with which no session runs (R184), is left out. -/
def Obligations.CheckPasses : Prop :=
  ∀ s u : State, UnitTurnIn s u → u.st = .busy → u.phase = .check → u.channels.toNat ≠ 0 →
    (∀ c, c < u.channels.toNat → u.numSamples.toNat ≤ (channel u.ch c).length) →
    ∃ t, step s = .next t
      ∧ (t.exc = true ↔ u.exc = true ∨ ∃ c, c < u.channels.toNat ∧ u.numSamples.toNat < (channel u.ch c).length)
      ∧ t = { u with cIdx := u.channels.toNat - 1, exc := t.exc, phase := .interleave }

/-- R160: one INTERLEAVE step emits frame F_IDX, one sample of every channel in channel order, and changes nothing
else but F_IDX; after frame N − 1 the session ends (R162). One frame a step is the model's granularity, log entry 9;
that C_IDX keeps its value is its inference, log entry 19. -/
def Obligations.InterleaveEmitsFrame : Prop :=
  ∀ s u : State, UnitTurnIn s u → u.st = .busy → u.phase = .interleave →
    (u.fIdx < u.numSamples.toNat → (∀ c, c < u.channels.toNat → u.fIdx < (channel u.ch c).length) →
      step s = .next { u with
        out := u.out ++ (List.range u.channels.toNat).map (fun c => (channel u.ch c).getD u.fIdx 0)
        fIdx := u.fIdx + 1 }) ∧
    (u.numSamples.toNat ≤ u.fIdx → step s = .next { u with ch := [], st := .done })

/-! Host commands and registers (`43_host_commands.md`, `10_state.md`). -/

/-- R183, R150, R152: START in IDLE with a good configuration begins the session; everything it does not clear or set
is unchanged. That START is one step, up to STATE = BUSY, is the model's granularity, log entry 9; that PHASE is then
CHECK when NUM_GROUPS = 0 is its inference from the empty loop of R150, log entry 19. -/
def Obligations.StartBeginsSession : Prop :=
  ∀ (x : BitVec 30) (s : State), s.st = .idle → ConfigGood s →
    exec (.start x) s =
      .next { s with
        ovf := false, exc := false, errCode := 0, errGroup := 0, errChan := 0, errAddr := 0
        cur := 0, gIdx := 0, cIdx := 0, fIdx := 0, ch := [], st := .busy
        overflow := s.numSamples.toNat * s.channels.toNat % 512 / s.channels.toNat
        phase := if s.numGroups.toNat = 0 then .check else .seek }

/-- R184: START in IDLE with a bad configuration raises ConfigError, all error context 0; R183, R257: in any other
STATE it does nothing. That PHASE keeps its value at the raise is the model's inference from R210, log entry 19. -/
def Obligations.StartConfigErrorOrIgnored : Prop :=
  ∀ (x : BitVec 30) (s : State),
    (s.st = .idle →
      s.channels.toNat = 0 ∨ s.par.maxCh < s.channels.toNat ∨ s.par.offtabDepth < s.numGroups.toNat
        ∨ s.par.chbufDepth < 512 * s.numGroups.toNat →
      exec (.start x) s =
        .next { s with
          ovf := false, exc := false, errCode := 8, errGroup := 0, errChan := 0, errAddr := 0
          cur := 0, gIdx := 0, cIdx := 0, fIdx := 0, ch := [], st := .error }) ∧
    (s.st ≠ .idle → exec (.start x) s = .next s)

/-- R181, R26, R27: a configuration write takes the register's low bits unless BUSY, and changes nothing else. -/
def Obligations.ConfigWriteTakesLowBits : Prop :=
  ∀ (s : State) (o : Nat) (d : BitVec 32) (es : List HostEvent), s.host = .write o d :: es →
    (s.st ≠ .busy →
      (o = 0x08 → step s = .next { s with host := es, channels := d.extractLsb' 0 16 }) ∧
      (o = 0x0C → step s = .next { s with host := es, bitsPerSample := d.extractLsb' 0 16 }) ∧
      (o = 0x10 → step s = .next { s with host := es, numSamples := d }) ∧
      (o = 0x14 → step s = .next { s with host := es, numGroups := d }) ∧
      (o = 0x18 → step s = .next { s with host := es, dataOffset := d })) ∧
    (s.st = .busy → o % 4 = 0 → o ≠ 0 → step s = .next { s with host := es })

/-- R182: a write to 0x1000 + 4 × g loads OFFTAB[g] alone, unless BUSY; an index at or above OFFTAB_DEPTH is
ignored. -/
def Obligations.OfftabWriteLoadsEntry : Prop :=
  ∀ (s : State) (g : Nat) (d : BitVec 32) (es : List HostEvent), s.host = .write (0x1000 + 4 * g) d :: es →
    (s.st ≠ .busy → g < s.par.offtabDepth →
      ∃ t, step s = .next t ∧ t.offtab.read g = d ∧ (∀ x, x ≠ g → t.offtab.read x = s.offtab.read x)
        ∧ t = { s with host := es, offtab := t.offtab }) ∧
    (s.st = .busy ∨ s.par.offtabDepth ≤ g → step s = .next { s with host := es })

/-- R27, R26: writes to STATUS, to the error registers, to CUR and to the reserved offsets 0x38 to 0xFFC change
nothing. -/
def Obligations.ReadOnlyWritesIgnored : Prop :=
  ∀ (s : State) (o : Nat) (d : BitVec 32) (es : List HostEvent), s.host = .write o d :: es → o % 4 = 0 →
    (o = 0x04 ∨ (0x1C ≤ o ∧ o ≤ 0xFFC)) → step s = .next { s with host := es }

/-- R187, R26: a read returns the register's value, zero-extended, and changes nothing else; CTRL and the reserved
offsets read 0. While BUSY a value is claimed only of what the spec fixes then: STATE in STATUS, the configuration,
OFFTAB, CTRL and the reserved offsets. -/
def Obligations.RegisterReads : Prop :=
  ∀ (s : State) (o : Nat) (es : List HostEvent), s.host = .read o :: es → o % 4 = 0 →
    ∃ v : BitVec 32, step s = .next { s with host := es, rdata := v }
      ∧ (o = 0x00 → v = 0)
      ∧ (o = 0x04 → v.extractLsb' 0 2 = s.st.code)
      ∧ (o = 0x08 → v.toNat = s.channels.toNat)
      ∧ (o = 0x0C → v.toNat = s.bitsPerSample.toNat)
      ∧ (o = 0x10 → v = s.numSamples)
      ∧ (o = 0x14 → v = s.numGroups)
      ∧ (o = 0x18 → v = s.dataOffset)
      ∧ (0x38 ≤ o → o ≤ 0xFFC → v = 0)
      ∧ (∀ g, o = 0x1000 + 4 * g → g < s.par.offtabDepth → v = s.offtab.read g)
      ∧ (s.st ≠ .busy →
          (o = 0x04 → v = statusWord s.st s.ovf s.exc)
          ∧ (o = 0x1C → v.toNat = s.errCode.toNat)
          ∧ (o = 0x20 → v = s.errGroup)
          ∧ (o = 0x24 → v.toNat = s.errChan.toNat)
          ∧ (o = 0x28 → v.toNat = s.errAddr.toNat % 2 ^ 32)
          ∧ (o = 0x2C → v.toNat = s.errAddr.toNat / 2 ^ 32)
          ∧ (o = 0x30 → v.toNat = s.cur.toNat % 2 ^ 32)
          ∧ (o = 0x34 → v.toNat = s.cur.toNat / 2 ^ 32))

/-- R23: the fields of STATUS and its reserved bits. -/
def Obligations.StatusWordFields : Prop :=
  ∀ (st : Session) (o e : Bool),
    (statusWord st o e).extractLsb' 0 2 = (match st with | .idle => 0 | .busy => 1 | .done => 2 | .error => 3)
      ∧ (statusWord st o e).extractLsb' 2 2 = 0
      ∧ (statusWord st o e).getLsbD 4 = o ∧ (statusWord st o e).getLsbD 5 = e
      ∧ (statusWord st o e).extractLsb' 6 26 = 0

/-- R57, R251: the host loads numBlocks − 1 entries, in the order it read them, or 0 and then them when
PREPEND_ZERO. -/
def Obligations.OffsetTableEnumeration : Prop :=
  ∀ (p : Bool) (h : FileHeader) (file : List Byte) (n : Nat), h.blocksOffset.toNat ≤ h.dataOffset.toNat →
    h.dataOffset.toNat - h.blocksOffset.toNat = 4 * (n + 1) → 120 + 4 * n ≤ file.length →
    ∃ table, offsetTable p h file = .ok table
      ∧ table.length = (if p then n + 1 else n)
      ∧ (p = true → table[0]? = some 0)
      ∧ ∀ k, k < n → table[if p then k + 1 else k]? =
          some (BitVec.ofNat 32 (leNat ((file.drop (120 + 4 * k)).take 4)))

/-- R252, R253: after the host's events but the last, from any STATE but BUSY, the unit is IDLE with the header's
configuration, the table loaded and the file in SRC, and the START write is next. -/
def Obligations.HostProgramLoadsUnit : Prop :=
  ∀ (s : State) (h : FileHeader) (table : List (BitVec 32)) (file : List Byte),
    s.st ≠ .busy → s.host = programUnit h table file → table.length ≤ s.par.offtabDepth →
    table.length < 2 ^ 32 → file.length < 2 ^ 64 →
    ∃ t, Sys2Proof.core.run ((programUnit h table file).length - 1) s = .next t
      ∧ t.st = .idle ∧ t.host = [.write 0 1]
      ∧ t.channels = h.channels ∧ t.bitsPerSample = h.bitsPerSample ∧ t.numSamples = h.numSamples
      ∧ t.numGroups.toNat = table.length ∧ t.dataOffset = h.dataOffset
      ∧ (∀ g, g < table.length → table[g]? = some (t.offtab.read g))
      ∧ t.src.len.toNat = file.length ∧ (∀ a, a < file.length → file[a]? = some (Memory.read t.src.mem a))
      ∧ t.out = s.out

/-! Exceptions (`60_exceptions.md`). -/

/-- R210: the entry. The context is recorded, the channel buffers are cleared, STATE becomes ERROR; every other
register, CUR among them, keeps its value. -/
def Obligations.RaiseRecordsContext : Prop :=
  ∀ (e : Cause) (addr : Nat) (s : State),
    raise e addr s =
      { s with
        errCode := e.code, errGroup := BitVec.ofNat 32 s.gIdx, errChan := BitVec.ofNat 16 s.cIdx
        errAddr := BitVec.ofNat 64 addr, ch := [], st := .error }

/-- R201: the nine codes; none is 0, and 10 to 15 are never raised. -/
def Obligations.CauseCodeTable : Prop :=
  Cause.code .invalidBlockSignature = 1 ∧ Cause.code .shortRead = 2 ∧ Cause.code .unsupportedChannelEncoding = 3
    ∧ Cause.code .unsupportedSampleFormat = 4 ∧ Cause.code .ioFailure = 5 ∧ Cause.code .unsupportedWidth = 6
    ∧ Cause.code .unsupportedBitDepth = 7 ∧ Cause.code .configError = 8 ∧ Cause.code .lengthShort = 9
    ∧ ∀ e : Cause, 1 ≤ e.code.toNat ∧ e.code.toNat ≤ 9

/-- R215: the only way out of ERROR is the RESET command, a write to CTRL with d[1] = 1, or a hardware reset; both go
to IDLE with the error registers 0, and nothing of the session is left. -/
def Obligations.OnlyResetLeavesError : Prop :=
  ∀ s t : State, s.st = .error → step s = .next t → t.st ≠ .error →
    t.st = .idle ∧ t.errCode = 0 ∧ t.errGroup = 0 ∧ t.errChan = 0 ∧ t.errAddr = 0
      ∧ (∀ c, channel t.ch c = []) ∧ t.gIdx = 0 ∧ t.cIdx = 0 ∧ t.fIdx = 0 ∧ t.cur = 0
      ∧ ((∃ o d es, s.host = .write o d :: es ∧ busReg s.par.offtabDepth o = .ctrl ∧ d.getLsbD 1 = true) ∨
          ∃ es, s.host = .hardwareReset :: es)

/-! The step. -/

/-- When the 16 bytes at CUR decode to a stream instruction, the unit's turn in the BLOCK phase is that instruction's
meaning in that state; nothing is added around it. -/
def Obligations.StepRunsStreamInstruction : Prop :=
  ∀ (s u : State) (hdr : List Byte) (i : Instr), UnitTurnIn s u → u.st = .busy → u.phase = .block →
    memRead u.src u.cur.toNat 16 = .ok hdr → decodeHeader u.par.blockMagic (headerWord hdr) = .ok i →
    step s = exec i u

/-- When the pending host event is a write to CTRL whose word decodes to a command, the step is that command's meaning
in the state with the event taken off; a word that is no operation only takes the event off (R186). -/
def Obligations.StepRunsHostCommand : Prop :=
  ∀ (s : State) (d : BitVec 32) (es : List HostEvent), s.host = .write 0 d :: es →
    (∀ i, decodeCtrl d = .ok i → step s = exec i { s with host := es }) ∧
    (d.getLsbD 1 = false → d.getLsbD 0 = false → step s = .next { s with host := es })

/-- R13, R150, R219: outside BUSY the unit does nothing on its own. -/
def Obligations.UnitQuietOutsideBusy : Prop :=
  ∀ s u : State, UnitTurnIn s u → u.st ≠ .busy → step s = .next u

/-- R6, R29: no step changes a parameter. -/
def Obligations.ParametersNeverChange : Prop :=
  ∀ s t : State, step s = .next t → t.par = s.par

/-! Whole-machine invariants: each is kept by every step from every state that has it. -/

/-- Memory, io_fault, OFFTAB and the channel buffers stay in canonical form; PAY and S stay full. -/
def Obligations.StepKeepsCanonical : Prop :=
  ∀ s t : State, s.Canonical → step s = .next t → t.Canonical

/-- R15 to R17, R21: W, PAY_LEN, NBITS, PAYPTR, K and OVERFLOW stay in their ranges, and bits of ACC at positions ≥
NBITS stay 0. -/
def Obligations.StepKeepsRanges : Prop :=
  ∀ s t : State, s.InRange → step s = .next t → t.InRange

/-- R24: the error registers are 0 whenever STATE is not ERROR. -/
def Obligations.StepKeepsErrorRegistersClear : Prop :=
  ∀ s t : State, s.ErrorsClear → step s = .next t → t.ErrorsClear

/-- R13, R150, R158, R159: while BUSY the indices, PHASE and the length of every channel buffer fit together, and
outside a session the buffers are empty (R20). -/
def Obligations.StepKeepsSessionConsistent : Prop :=
  ∀ s t : State, s.Canonical → s.Consistent → step s = .next t → t.Consistent

/-- R14: CUR stays below 2^34, so it cannot wrap. -/
def Obligations.StepKeepsCursorBounded : Prop :=
  ∀ s t : State, s.CursorBounded → step s = .next t → t.CursorBounded ∧ t.cur.toNat < 2 ^ 34

/-- State.reset has all of these invariants. -/
def Obligations.ResetMeetsInvariants : Prop :=
  State.reset.Canonical ∧ State.reset.InRange ∧ State.reset.ErrorsClear ∧ State.reset.Consistent
    ∧ State.reset.CursorBounded

/-- In a consistent state the unit's own turn never stops: it always has a next state. -/
def Obligations.UnitNeverStops : Prop :=
  ∀ s : State, s.Canonical → s.Consistent → (s.host = [] ∨ ∃ es, s.host = .wait :: es) → ∃ t, step s = .next t

/-- R258: every session ends. From a consistent BUSY state, left alone, STATE is DONE or ERROR after at most G × (C +
1) + N + 2 steps (the count is this model's granularity, log entry 9). -/
def Obligations.SessionEnds : Prop :=
  ∀ s : State, s.Canonical → s.Consistent → s.st = .busy → s.host = [] →
    ∃ k t, k ≤ s.numGroups.toNat * (s.channels.toNat + 1) + s.numSamples.toNat + 2
      ∧ Sys2Proof.core.run k s = .next t ∧ t.Ended

/-- R161: a session that ends in DONE has appended exactly N × C values to OUT, one that ends in ERROR none. -/
def Obligations.SessionOutputLength : Prop :=
  ∀ (x : BitVec 30) (s r t : State) (k : Nat), s.Canonical → s.st = .idle → s.host = [] →
    exec (.start x) s = .next r → Sys2Proof.core.run k r = .next t →
    (t.st = .done → ∃ vs, t.out = s.out ++ vs ∧ vs.length = s.numSamples.toNat * s.channels.toNat) ∧
    (t.st = .error → t.out = s.out)

/-- R160, R162: from the start of INTERLEAVE the whole output is frame-major: element f × C + c is CH[c][f]; then the
buffers are empty and STATE is DONE. That this takes NUM_SAMPLES + 1 steps is the model's granularity, log entry 9. -/
def Obligations.InterleaveOutputFrameMajor : Prop :=
  ∀ s : State, s.st = .busy → s.phase = .interleave → s.fIdx = 0 → s.host = [] →
    (∀ c, c < s.channels.toNat → s.numSamples.toNat ≤ (channel s.ch c).length) →
    ∃ t, Sys2Proof.core.run (s.numSamples.toNat + 1) s = .next t ∧ t.st = .done
      ∧ (∀ c, channel t.ch c = [])
      ∧ t.out = s.out ++ (List.range s.numSamples.toNat).flatMap fun f =>
          (List.range s.channels.toNat).map fun c => (channel s.ch c).getD f 0

/-- R242: a session depends only on the configuration, OFFTAB[0 .. G), SRC and the parameters. Two IDLE states that
agree on those, started and left alone, agree at every step on STATUS, CUR, the error registers and the channel
buffers, and have emitted the same values since START. -/
def Obligations.SessionIndependentOfPast : Prop :=
  ∀ (x y : BitVec 30) (s s' r r' t : State) (k : Nat),
    s.st = .idle → s'.st = .idle → s.host = [] → s'.host = [] →
    s.par = s'.par → s.src = s'.src → s.channels = s'.channels → s.bitsPerSample = s'.bitsPerSample →
    s.numSamples = s'.numSamples → s.numGroups = s'.numGroups → s.dataOffset = s'.dataOffset →
    (∀ g, g < s.numGroups.toNat → s.offtab.read g = s'.offtab.read g) →
    exec (.start x) s = .next r → exec (.start y) s' = .next r' → r.st = .busy →
    Sys2Proof.core.run k r = .next t →
    ∃ t' vs, Sys2Proof.core.run k r' = .next t' ∧ SameSession t t' ∧ t.out = s.out ++ vs ∧ t'.out = s'.out ++ vs
end

