-- ==== Sys2Proof/Laws/Memory.lean ====
section
/-! SUPPORT. The laws of the data operations of Ops: byte memory, the io_fault list, OFFTAB, the channel buffers, and
what MemRead answers. -/

namespace Sys2Proof.Machine

/-! Byte memory. -/

theorem Memory.wf_tail {c : Host.Cell} {m : Memory} (h : Memory.wf (c :: m)) : Memory.wf m :=
  ⟨(List.pairwise_cons.1 h.1).2, fun d hd => h.2 d (List.mem_cons_of_mem _ hd)⟩

theorem Memory.wf_head {c : Host.Cell} {m : Memory} (h : Memory.wf (c :: m)) : ∀ d ∈ m, c.1 < d.1 :=
  (List.pairwise_cons.1 h.1).1

theorem Memory.wf_cons {c : Host.Cell} {m : Memory} (hm : Memory.wf m) (hc : c.2 ≠ Memory.unlisted)
    (hlt : ∀ d ∈ m, c.1 < d.1) : Memory.wf (c :: m) :=
  ⟨List.pairwise_cons.2 ⟨hlt, hm.1⟩, by
    intro d hd
    rcases List.mem_cons.1 hd with rfl | hd
    · exact hc
    · exact hm.2 d hd⟩

theorem Memory.wf_nil : Memory.wf [] := ⟨List.Pairwise.nil, by simp⟩

/-- An address no cell lists reads as unlisted. -/
theorem Memory.read_of_not_listed {m : Memory} {a : Nat} (h : ∀ c ∈ m, c.1 ≠ a) : Memory.read m a = Memory.unlisted := by
  induction m with
  | nil => rfl
  | cons c m ih =>
    have hc : c.1 ≠ a := h c (by simp)
    simp only [Memory.read, if_neg hc]
    exact ih fun d hd => h d (List.mem_cons_of_mem _ hd)

theorem Memory.read_below {m : Memory} {a : Nat} (h : ∀ c ∈ m, a < c.1) : Memory.read m a = Memory.unlisted :=
  Memory.read_of_not_listed fun c hc => (Nat.ne_of_lt (h c hc)).symm

/-- What is listed after a write: the written address or an address listed before. -/
theorem Memory.mem_write {m : Memory} {a : Nat} {b : Byte} {d : Host.Cell} (h : d ∈ Memory.write m a b) :
    d = (a, b) ∨ d ∈ m := by
  induction m with
  | nil =>
    simp only [Memory.write] at h
    split at h <;> simp_all
  | cons c m ih =>
    simp only [Memory.write] at h
    split at h
    · split at h <;> simp_all
    · split at h
      · split at h <;> simp_all
        rcases h with h | h <;> simp_all
      · rcases List.mem_cons.1 h with rfl | h
        · simp
        · rcases ih h with h | h <;> simp_all

/-- A write keeps the canonical form. -/
theorem Memory.write_wf {m : Memory} (h : Memory.wf m) (a : Nat) (b : Byte) : Memory.wf (Memory.write m a b) := by
  induction m with
  | nil =>
    simp only [Memory.write]
    split
    · exact Memory.wf_nil
    · next hb => exact Memory.wf_cons Memory.wf_nil hb (by simp)
  | cons c m ih =>
    have hm := Memory.wf_tail h
    have hlt := Memory.wf_head h
    simp only [Memory.write]
    split
    · next hac =>
      split
      · exact h
      · next hb =>
        refine Memory.wf_cons h hb fun d hd => ?_
        rcases List.mem_cons.1 hd with rfl | hd
        · exact hac
        · exact Nat.lt_trans hac (hlt d hd)
    · next hac =>
      split
      · next hca =>
        split
        · exact hm
        · next hb => exact Memory.wf_cons hm hb fun d hd => by simpa [← hca] using hlt d hd
      · next hca =>
        refine Memory.wf_cons (ih hm) (h.2 c (by simp)) fun d hd => ?_
        rcases Memory.mem_write hd with rfl | hd
        · simp only; omega
        · exact hlt d hd

/-- A read after a write: the byte written at that address, the old byte everywhere else. -/
theorem Memory.read_write {m : Memory} (h : Memory.wf m) (a : Nat) (b : Byte) (x : Nat) :
    Memory.read (Memory.write m a b) x = if x = a then b else Memory.read m x := by
  induction m with
  | nil =>
    by_cases hb : b = Memory.unlisted
    · simp [Memory.write, Memory.read, hb]
    · simp [Memory.write, Memory.read, hb, eq_comm]
  | cons c m ih =>
    have hm := Memory.wf_tail h
    have hlt := Memory.wf_head h
    simp only [Memory.write]
    split
    · next hac =>
      have hread : Memory.read (c :: m) a = Memory.unlisted := Memory.read_below fun d hd => by
        rcases List.mem_cons.1 hd with rfl | hd
        · exact hac
        · exact Nat.lt_trans hac (hlt d hd)
      split
      · next hb =>
        by_cases hx : x = a
        · subst hx; simp [hread, hb]
        · simp [hx]
      · by_cases hx : x = a
        · subst hx; simp [Memory.read]
        · simp only [Memory.read, if_neg (fun h : a = x => hx h.symm), if_neg hx]
    · next hac =>
      split
      · next hca =>
        split
        · next hb =>
          by_cases hx : x = a
          · subst hx
            rw [if_pos rfl, hb]
            exact Memory.read_below fun d hd => by simpa [← hca] using hlt d hd
          · simp only [if_neg hx, Memory.read, if_neg (fun h : c.1 = x => hx (h.symm.trans hca))]
        · by_cases hx : x = a
          · subst hx; simp [Memory.read]
          · simp only [if_neg hx, Memory.read, if_neg (fun h : a = x => hx h.symm),
              if_neg (fun h : c.1 = x => hx (h.symm.trans hca))]
      · next hca =>
        simp only [Memory.read, ih hm]
        by_cases hx : x = a
        · subst hx; simp [hca]
        · simp [hx]

/-- Every cell of `ofBytes a bs` lies in the range the bytes cover, and lists no unlisted byte. -/
theorem Memory.mem_ofBytes {bs : List Byte} {a : Nat} {c : Host.Cell} (h : c ∈ Memory.ofBytes a bs) :
    a ≤ c.1 ∧ c.1 < a + bs.length ∧ c.2 ≠ Memory.unlisted := by
  induction bs generalizing a with
  | nil => simp [Memory.ofBytes] at h
  | cons b bs ih =>
    simp only [Memory.ofBytes] at h
    simp only [List.length_cons]
    split at h
    · have := ih h
      exact ⟨by omega, by omega, this.2.2⟩
    · next hb =>
      rcases List.mem_cons.1 h with rfl | h
      · exact ⟨Nat.le_refl _, by simp only; omega, hb⟩
      · have := ih h
        exact ⟨by omega, by omega, this.2.2⟩

theorem Memory.ofBytes_wf (a : Nat) (bs : List Byte) : Memory.wf (Memory.ofBytes a bs) := by
  induction bs generalizing a with
  | nil => exact Memory.wf_nil
  | cons b bs ih =>
    simp only [Memory.ofBytes]
    split
    · exact ih _
    · next hb => exact Memory.wf_cons (ih _) hb fun d hd => (Memory.mem_ofBytes hd).1

/-- The bytes of `ofBytes` read back. -/
theorem Memory.read_ofBytes (a : Nat) (bs : List Byte) (i : Nat) :
    Memory.read (Memory.ofBytes a bs) (a + i) = bs.getD i Memory.unlisted := by
  induction bs generalizing a i with
  | nil => simp [Memory.ofBytes, Memory.read]
  | cons b bs ih =>
    have hrest : Memory.read (Memory.ofBytes (a + 1) bs) a = Memory.unlisted :=
      Memory.read_below fun d hd => (Memory.mem_ofBytes hd).1
    cases i with
    | zero =>
      simp only [Memory.ofBytes]
      split
      · next hb => simp [hrest, hb]
      · simp [Memory.read]
    | succ i =>
      have hi := ih (a + 1) i
      rw [Nat.add_assoc, Nat.add_comm 1 i] at hi
      simp only [Memory.ofBytes]
      split
      · simpa using hi
      · simpa [Memory.read] using hi

theorem Memory.walk_length (n : Nat) (m : Memory) (a : Nat) : (Memory.walk n m a).length = n := by
  induction n generalizing m a with
  | zero => cases m <;> rfl
  | succ n ih =>
    cases m with
    | nil => simp [Memory.walk, ih]
    | cons c m =>
      simp only [Memory.walk]
      split <;> simp [ih]

@[simp] theorem Memory.readRange_length (m : Memory) (a n : Nat) : (Memory.readRange m a n).length = n :=
  Memory.walk_length _ _ _

/-- The walk is the byte reads one after another, from cells that start no lower than `a`. -/
theorem Memory.walk_eq {m : Memory} (h : Memory.wf m) (n a : Nat) (hlow : ∀ c ∈ m, a ≤ c.1) :
    Memory.walk n m a = (List.range n).map fun i => Memory.read m (a + i) := by
  induction n generalizing m a with
  | zero => cases m <;> rfl
  | succ n ih =>
    rw [List.range_succ_eq_map, List.map_cons, List.map_map]
    cases m with
    | nil =>
      simp only [Memory.walk, ih Memory.wf_nil (a + 1) (by simp), Memory.read]
      rfl
    | cons c m =>
      have hm := Memory.wf_tail h
      have hlt := Memory.wf_head h
      have hc := hlow c (by simp)
      simp only [Memory.walk]
      split
      · next hca =>
        rw [ih hm (a + 1) fun d hd => by have := hlt d hd; omega]
        simp only [Memory.read, Nat.add_zero, if_pos hca, List.cons.injEq, true_and]
        refine List.map_congr_left fun i _ => ?_
        simp only [Function.comp, Nat.succ_eq_add_one]
        rw [if_neg (by omega : ¬c.1 = a + (i + 1))]
        congr 1; omega
      · next hca =>
        have hgt : ∀ d ∈ c :: m, a < d.1 := fun d hd => by
          rcases List.mem_cons.1 hd with rfl | hd
          · omega
          · have := hlt d hd; omega
        have hhead : Memory.read (c :: m) (a + 0) = Memory.unlisted := Memory.read_below hgt
        rw [ih h (a + 1) hgt, hhead]
        simp only [List.cons.injEq, true_and]
        refine List.map_congr_left fun i _ => ?_
        simp only [Function.comp, Nat.succ_eq_add_one]
        congr 1; omega

theorem Memory.read_dropWhile {m : Memory} (h : Memory.wf m) (a x : Nat) (hx : a ≤ x) :
    Memory.read (m.dropWhile fun c => decide (c.1 < a)) x = Memory.read m x := by
  induction m with
  | nil => rfl
  | cons c m ih =>
    simp only [List.dropWhile_cons]
    split
    · next hc =>
      have hc : c.1 < a := by simpa using hc
      rw [ih (Memory.wf_tail h)]
      simp only [Memory.read]
      rw [if_neg (by omega)]
    · rfl

theorem Memory.dropWhile_wf {m : Memory} (h : Memory.wf m) (a : Nat) :
    Memory.wf (m.dropWhile fun c => decide (c.1 < a)) ∧ ∀ c ∈ m.dropWhile (fun c => decide (c.1 < a)), a ≤ c.1 := by
  induction m with
  | nil => exact ⟨h, by simp⟩
  | cons c m ih =>
    simp only [List.dropWhile_cons]
    split
    · exact ih (Memory.wf_tail h)
    · next hc =>
      have hc : a ≤ c.1 := by simpa using hc
      refine ⟨h, fun d hd => ?_⟩
      rcases List.mem_cons.1 hd with rfl | hd
      · exact hc
      · exact Nat.le_trans hc (Nat.le_of_lt (Memory.wf_head h d hd))

/-- In a canonical memory a range read is the byte reads one after another. -/
theorem Memory.readRange_eq {m : Memory} (h : Memory.wf m) (a n : Nat) :
    Memory.readRange m a n = (List.range n).map fun i => Memory.read m (a + i) := by
  have hd := Memory.dropWhile_wf h a
  rw [Memory.readRange, Memory.walk_eq hd.1 n a hd.2]
  exact List.map_congr_left fun i _ => Memory.read_dropWhile h a _ (by omega)

/-! The io_fault list. -/

theorem mem_setFaultAt {xs : List Nat} (h : xs.Pairwise (· < ·)) (a : Nat) (faulty : Bool) (x : Nat) :
    x ∈ setFaultAt xs a faulty ↔ if x = a then faulty = true else x ∈ xs := by
  induction xs with
  | nil => cases faulty <;> by_cases hx : x = a <;> simp [setFaultAt, hx]
  | cons y ys ih =>
    have hy := (List.pairwise_cons.1 h).1
    have ih := ih (List.pairwise_cons.1 h).2
    simp only [setFaultAt]
    split
    · next hlt =>
      have hnot : a ∉ y :: ys := by
        intro hm
        rcases List.mem_cons.1 hm with rfl | hm
        · omega
        · have := hy a hm; omega
      cases faulty <;> by_cases hx : x = a <;> simp_all
    · split
      · next hlt hya =>
        subst hya
        have hnot : y ∉ ys := fun hm => by have := hy y hm; omega
        cases faulty <;> by_cases hx : x = y <;> simp_all
      · next hlt hya =>
        rw [List.mem_cons, ih]
        by_cases hx : x = a
        · subst hx; simp [Ne.symm hya]
        · simp [hx]

theorem setFaultAt_rising {xs : List Nat} (h : xs.Pairwise (· < ·)) (a : Nat) (faulty : Bool) :
    (setFaultAt xs a faulty).Pairwise (· < ·) := by
  induction xs with
  | nil => cases faulty <;> simp [setFaultAt]
  | cons y ys ih =>
    have hy := (List.pairwise_cons.1 h).1
    have hys := (List.pairwise_cons.1 h).2
    simp only [setFaultAt]
    split
    · next hlt =>
      split
      · refine List.pairwise_cons.2 ⟨fun z hz => ?_, h⟩
        rcases List.mem_cons.1 hz with rfl | hz
        · exact hlt
        · exact Nat.lt_trans hlt (hy z hz)
      · exact h
    · split
      · split
        · exact h
        · exact hys
      · next hlt hya =>
        refine List.pairwise_cons.2 ⟨fun z hz => ?_, ih hys⟩
        rw [mem_setFaultAt hys] at hz
        split at hz
        · omega
        · exact hy z hz

/-! OFFTAB. -/

theorem mem_insertEntry {es : List (Nat × BitVec 32)} {g : Nat} {d : BitVec 32} {e : Nat × BitVec 32}
    (h : e ∈ insertEntry es g d) : e = (g, d) ∨ e ∈ es := by
  induction es with
  | nil => simpa [insertEntry] using h
  | cons x xs ih =>
    simp only [insertEntry] at h
    split at h
    · simpa using h
    · split at h
      · rcases List.mem_cons.1 h with h | h <;> simp_all
      · rcases List.mem_cons.1 h with rfl | h
        · simp
        · rcases ih h with h | h <;> simp_all

theorem insertEntry_rising {es : List (Nat × BitVec 32)} (h : es.Pairwise (fun a b => a.1 < b.1)) (g : Nat)
    (d : BitVec 32) : (insertEntry es g d).Pairwise (fun a b => a.1 < b.1) := by
  induction es with
  | nil => simp [insertEntry]
  | cons x xs ih =>
    have hx := (List.pairwise_cons.1 h).1
    have hxs := (List.pairwise_cons.1 h).2
    simp only [insertEntry]
    split
    · next hlt =>
      refine List.pairwise_cons.2 ⟨fun z hz => ?_, h⟩
      rcases List.mem_cons.1 hz with rfl | hz
      · exact hlt
      · exact Nat.lt_trans hlt (hx z hz)
    · split
      · next hlt heq => exact List.pairwise_cons.2 ⟨fun z hz => by simpa [← heq] using hx z hz, hxs⟩
      · next hlt hne =>
        refine List.pairwise_cons.2 ⟨fun z hz => ?_, ih hxs⟩
        rcases mem_insertEntry hz with rfl | hz
        · simp only; omega
        · exact hx z hz

theorem lookupEntry_none_of_below {es : List (Nat × BitVec 32)} {g : Nat} (h : ∀ e ∈ es, g < e.1) :
    lookupEntry es g = none := by
  induction es with
  | nil => rfl
  | cons x xs ih =>
    have hx := h x (by simp)
    simp only [lookupEntry]
    rw [if_neg (by omega)]
    exact ih fun e he => h e (List.mem_cons_of_mem _ he)

theorem lookupEntry_insertEntry {es : List (Nat × BitVec 32)} (g : Nat) (d : BitVec 32) (x : Nat) :
    lookupEntry (insertEntry es g d) x = if x = g then some d else lookupEntry es x := by
  induction es with
  | nil => simp [insertEntry, lookupEntry, eq_comm]
  | cons e es ih =>
    simp only [insertEntry]
    split
    · by_cases hx : x = g
      · subst hx; simp [lookupEntry]
      · simp only [lookupEntry, if_neg (fun h : g = x => hx h.symm), if_neg hx]
    · split
      · next hge =>
        by_cases hx : x = g
        · subst hx; simp [lookupEntry]
        · simp only [lookupEntry, if_neg hx, if_neg (fun h : g = x => hx h.symm),
            if_neg (fun h : e.1 = x => hx (h.symm.trans hge))]
      · next hge =>
        simp only [lookupEntry, ih]
        by_cases hx : x = g
        · subst hx; simp [hge]
        · simp [hx]

/-- OFFTAB reads back what was written at that index, and is unchanged at every other. -/
theorem Offtab.read_write (t : Offtab) (g : Nat) (d : BitVec 32) (x : Nat) :
    (t.write g d).read x = if x = g then d else t.read x := by
  simp only [Offtab.read, Offtab.write, lookupEntry_insertEntry]
  by_cases hx : x = g <;> simp [hx]

/-! The channel buffers. -/

theorem channel_nil_of_below {bufs : ChannelBuffers} {c : Nat} (h : ∀ e ∈ bufs, c < e.1) : channel bufs c = [] := by
  induction bufs with
  | nil => rfl
  | cons e es ih =>
    have he := h e (by simp)
    simp only [channel]
    rw [if_neg (by omega)]
    exact ih fun x hx => h x (List.mem_cons_of_mem _ hx)

theorem mem_appendChannel {bufs : ChannelBuffers} {c : Nat} {vs : List Sample} {e : Nat × List Sample}
    (h : e ∈ appendChannel bufs c vs) : e ∈ bufs ∨ (e.1 = c ∧ ((∃ x ∈ bufs, x.1 = c ∧ e.2 = x.2 ++ vs) ∨ e.2 = vs ∧ vs ≠ [])) := by
  induction bufs with
  | nil =>
    simp only [appendChannel] at h
    split at h
    · simp at h
    · next hv => simp at h; subst h; exact .inr ⟨rfl, .inr ⟨rfl, hv⟩⟩
  | cons x xs ih =>
    simp only [appendChannel] at h
    split at h
    · split at h
      · exact .inl h
      · next hv =>
        rcases List.mem_cons.1 h with rfl | h
        · exact .inr ⟨rfl, .inr ⟨rfl, hv⟩⟩
        · exact .inl h
    · split at h
      · next hxc =>
        rcases List.mem_cons.1 h with rfl | h
        · exact .inr ⟨rfl, .inl ⟨x, by simp, hxc, rfl⟩⟩
        · exact .inl (List.mem_cons_of_mem _ h)
      · rcases List.mem_cons.1 h with rfl | h
        · exact .inl (by simp)
        · rcases ih h with h | ⟨hc, ⟨y, hy, hyc, hv⟩ | hv⟩
          · exact .inl (List.mem_cons_of_mem _ h)
          · exact .inr ⟨hc, .inl ⟨y, List.mem_cons_of_mem _ hy, hyc, hv⟩⟩
          · exact .inr ⟨hc, .inr hv⟩

theorem appendChannel_rising {bufs : ChannelBuffers} (h : bufs.Pairwise (fun a b => a.1 < b.1)) (c : Nat)
    (vs : List Sample) : (appendChannel bufs c vs).Pairwise (fun a b => a.1 < b.1) := by
  induction bufs with
  | nil =>
    simp only [appendChannel]
    split <;> simp
  | cons x xs ih =>
    have hx := (List.pairwise_cons.1 h).1
    have hxs := (List.pairwise_cons.1 h).2
    simp only [appendChannel]
    split
    · next hlt =>
      split
      · exact h
      · refine List.pairwise_cons.2 ⟨fun z hz => ?_, h⟩
        rcases List.mem_cons.1 hz with rfl | hz
        · exact hlt
        · exact Nat.lt_trans hlt (hx z hz)
    · split
      · next hlt heq => exact List.pairwise_cons.2 ⟨fun z hz => by simpa [← heq] using hx z hz, hxs⟩
      · next hlt hne =>
        refine List.pairwise_cons.2 ⟨fun z hz => ?_, ih hxs⟩
        rcases mem_appendChannel hz with hz | ⟨hz, -⟩
        · exact hx z hz
        · omega

theorem appendChannel_nonempty {bufs : ChannelBuffers} (h : ∀ e ∈ bufs, e.2 ≠ []) (c : Nat) (vs : List Sample) :
    ∀ e ∈ appendChannel bufs c vs, e.2 ≠ [] := by
  intro e he
  rcases mem_appendChannel he with he | ⟨-, ⟨x, hx, -, hv⟩ | ⟨hv, hne⟩⟩
  · exact h e he
  · rw [hv]; simp [h x hx]
  · rw [hv]; exact hne

/-- An append extends one channel and leaves every other alone. -/
theorem channel_appendChannel {bufs : ChannelBuffers} (h : bufs.Pairwise (fun a b => a.1 < b.1)) (c : Nat)
    (vs : List Sample) (x : Nat) :
    channel (appendChannel bufs c vs) x = if x = c then channel bufs c ++ vs else channel bufs x := by
  induction bufs with
  | nil =>
    by_cases hv : vs = []
    · subst hv; simp [appendChannel, channel]
    · simp [appendChannel, channel, hv, eq_comm]
  | cons e es ih =>
    have he := (List.pairwise_cons.1 h).1
    have hes := (List.pairwise_cons.1 h).2
    simp only [appendChannel]
    split
    · next hlt =>
      have hempty : channel (e :: es) c = [] := channel_nil_of_below fun y hy => by
        rcases List.mem_cons.1 hy with rfl | hy
        · exact hlt
        · exact Nat.lt_trans hlt (he y hy)
      split
      · next hv =>
        by_cases hx : x = c
        · subst hx; simp [hempty, hv]
        · simp [hx]
      · by_cases hx : x = c
        · subst hx
          rw [if_pos rfl, hempty]
          simp [channel]
        · rw [if_neg hx]
          simp only [channel, if_neg (fun h : c = x => hx h.symm)]
    · split
      · next hec =>
        by_cases hx : x = c
        · subst hx; simp [channel, hec]
        · simp only [channel, if_neg hx, if_neg (fun h : e.1 = x => hx (h.symm.trans hec)),
            if_neg (fun h : c = x => hx h.symm)]
      · next hec =>
        simp only [channel, ih hes]
        by_cases hx : x = c
        · subst hx; simp [hec]
        · simp [hx]

/-! MemRead. -/

/-- No fault is found exactly when none lies in the range. -/
theorem leastIoFault_none {xs : List Nat} {a n : Nat} :
    leastIoFault xs a n = none ↔ ∀ x ∈ xs, ¬(a ≤ x ∧ x < a + n) := by
  simp [leastIoFault, List.min?_eq_none_iff, List.filter_eq_nil_iff]

/-- The fault found lies in the range and is the least that does. -/
theorem leastIoFault_some {xs : List Nat} {a n m : Nat} :
    leastIoFault xs a n = some m ↔
      m ∈ xs ∧ a ≤ m ∧ m < a + n ∧ ∀ x ∈ xs, a ≤ x → x < a + n → m ≤ x := by
  simp only [leastIoFault, List.min?_eq_some_iff, List.mem_filter, Bool.and_eq_true, decide_eq_true_eq]
  constructor
  · rintro ⟨⟨hm, ha, hn⟩, hmin⟩
    exact ⟨hm, ha, hn, fun x hx hax hxn => hmin x ⟨hx, hax, hxn⟩⟩
  · rintro ⟨hm, ha, hn, hmin⟩
    exact ⟨⟨hm, ha, hn⟩, fun x hx => hmin x hx.1 hx.2.1 hx.2.2⟩

/-- All MemRead can answer (R44). -/
theorem memRead_cases (src : Source) (a n : Nat) :
    (src.len.toNat < a + n ∧ memRead src a n = .error (.shortRead, a)) ∨
    (a + n ≤ src.len.toNat ∧ ∃ m, leastIoFault src.ioFault a n = some m ∧ memRead src a n = .error (.ioFailure, m)) ∨
    (Readable src a n ∧ memRead src a n = .ok (Memory.readRange src.mem a n)) := by
  unfold memRead
  split
  · next h => exact .inl ⟨h, rfl⟩
  · next h =>
    right
    have hle : a + n ≤ src.len.toNat := by omega
    split
    · next m hm => exact .inl ⟨hle, m, hm, rfl⟩
    · next hm => exact .inr ⟨⟨hle, leastIoFault_none.1 hm⟩, rfl⟩

/-- A readable range is read. -/
theorem memRead_of_readable {src : Source} {a n : Nat} (h : Readable src a n) :
    memRead src a n = .ok (Memory.readRange src.mem a n) := by
  have hle : ¬src.len.toNat < a + n := by have := h.1; omega
  simp only [memRead, if_neg hle, leastIoFault_none.2 h.2]

theorem memRead_ok {src : Source} {a n : Nat} {bs : List Byte} (h : memRead src a n = .ok bs) :
    Readable src a n ∧ bs = Memory.readRange src.mem a n := by
  rcases memRead_cases src a n with ⟨-, h'⟩ | ⟨-, m, -, h'⟩ | ⟨hr, h'⟩
  · rw [h'] at h; cases h
  · rw [h'] at h; cases h
  · rw [h'] at h; cases h; exact ⟨hr, rfl⟩

end Sys2Proof.Machine
end

