-- ==== Sys2Proof/Laws/State.lean ====
section
/-! SUPPORT. One lemma per field per named update of State, true by unfolding the update once: later proofs cite them
and never unfold a record update. -/

namespace Sys2Proof.Machine

/-! `raise` -/

@[simp] theorem raise_par (e : Cause) (a : Nat) (s : State) : (raise e a s).par = s.par := rfl
@[simp] theorem raise_src (e : Cause) (a : Nat) (s : State) : (raise e a s).src = s.src := rfl
@[simp] theorem raise_host (e : Cause) (a : Nat) (s : State) : (raise e a s).host = s.host := rfl
@[simp] theorem raise_rdata (e : Cause) (a : Nat) (s : State) : (raise e a s).rdata = s.rdata := rfl
@[simp] theorem raise_channels (e : Cause) (a : Nat) (s : State) : (raise e a s).channels = s.channels := rfl
@[simp] theorem raise_bitsPerSample (e : Cause) (a : Nat) (s : State) :
    (raise e a s).bitsPerSample =
      s.bitsPerSample := rfl
@[simp] theorem raise_numSamples (e : Cause) (a : Nat) (s : State) : (raise e a s).numSamples = s.numSamples := rfl
@[simp] theorem raise_numGroups (e : Cause) (a : Nat) (s : State) : (raise e a s).numGroups = s.numGroups := rfl
@[simp] theorem raise_dataOffset (e : Cause) (a : Nat) (s : State) : (raise e a s).dataOffset = s.dataOffset := rfl
@[simp] theorem raise_offtab (e : Cause) (a : Nat) (s : State) : (raise e a s).offtab = s.offtab := rfl
@[simp] theorem raise_st (e : Cause) (a : Nat) (s : State) : (raise e a s).st = .error := rfl
@[simp] theorem raise_phase (e : Cause) (a : Nat) (s : State) : (raise e a s).phase = s.phase := rfl
@[simp] theorem raise_gIdx (e : Cause) (a : Nat) (s : State) : (raise e a s).gIdx = s.gIdx := rfl
@[simp] theorem raise_cIdx (e : Cause) (a : Nat) (s : State) : (raise e a s).cIdx = s.cIdx := rfl
@[simp] theorem raise_cur (e : Cause) (a : Nat) (s : State) : (raise e a s).cur = s.cur := rfl
@[simp] theorem raise_base (e : Cause) (a : Nat) (s : State) : (raise e a s).base = s.base := rfl
@[simp] theorem raise_bits (e : Cause) (a : Nat) (s : State) : (raise e a s).bits = s.bits := rfl
@[simp] theorem raise_flags (e : Cause) (a : Nat) (s : State) : (raise e a s).flags = s.flags := rfl
@[simp] theorem raise_mode (e : Cause) (a : Nat) (s : State) : (raise e a s).mode = s.mode := rfl
@[simp] theorem raise_w (e : Cause) (a : Nat) (s : State) : (raise e a s).w = s.w := rfl
@[simp] theorem raise_pay (e : Cause) (a : Nat) (s : State) : (raise e a s).pay = s.pay := rfl
@[simp] theorem raise_payLen (e : Cause) (a : Nat) (s : State) : (raise e a s).payLen = s.payLen := rfl
@[simp] theorem raise_unp (e : Cause) (a : Nat) (s : State) : (raise e a s).unp = s.unp := rfl
@[simp] theorem raise_prev (e : Cause) (a : Nat) (s : State) : (raise e a s).prev = s.prev := rfl
@[simp] theorem raise_sbuf (e : Cause) (a : Nat) (s : State) : (raise e a s).sbuf = s.sbuf := rfl
@[simp] theorem raise_ch (e : Cause) (a : Nat) (s : State) : (raise e a s).ch = [] := rfl
@[simp] theorem raise_overflow (e : Cause) (a : Nat) (s : State) : (raise e a s).overflow = s.overflow := rfl
@[simp] theorem raise_fIdx (e : Cause) (a : Nat) (s : State) : (raise e a s).fIdx = s.fIdx := rfl
@[simp] theorem raise_ovf (e : Cause) (a : Nat) (s : State) : (raise e a s).ovf = s.ovf := rfl
@[simp] theorem raise_exc (e : Cause) (a : Nat) (s : State) : (raise e a s).exc = s.exc := rfl
@[simp] theorem raise_errCode (e : Cause) (a : Nat) (s : State) : (raise e a s).errCode = e.code := rfl
@[simp] theorem raise_errGroup (e : Cause) (a : Nat) (s : State) : (raise e a s).errGroup = BitVec.ofNat 32 s.gIdx
    := rfl
@[simp] theorem raise_errChan (e : Cause) (a : Nat) (s : State) : (raise e a s).errChan = BitVec.ofNat 16 s.cIdx
    := rfl
@[simp] theorem raise_errAddr (e : Cause) (a : Nat) (s : State) : (raise e a s).errAddr = BitVec.ofNat 64 a := rfl
@[simp] theorem raise_out (e : Cause) (a : Nat) (s : State) : (raise e a s).out = s.out := rfl
@[simp] theorem raise_taken (e : Cause) (a : Nat) (s : State) : (raise e a s).taken = s.taken := rfl
@[simp] theorem raise_lastTaken (e : Cause) (a : Nat) (s : State) : (raise e a s).lastTaken = s.lastTaken := rfl
@[simp] theorem raise_fresh (e : Cause) (a : Nat) (s : State) : (raise e a s).fresh = s.fresh := rfl

/-! `consumeHeader` -/

@[simp] theorem consumeHeader_par (s : State) : (consumeHeader s).par = s.par := rfl
@[simp] theorem consumeHeader_src (s : State) : (consumeHeader s).src = s.src := rfl
@[simp] theorem consumeHeader_host (s : State) : (consumeHeader s).host = s.host := rfl
@[simp] theorem consumeHeader_rdata (s : State) : (consumeHeader s).rdata = s.rdata := rfl
@[simp] theorem consumeHeader_channels (s : State) : (consumeHeader s).channels = s.channels := rfl
@[simp] theorem consumeHeader_bitsPerSample (s : State) : (consumeHeader s).bitsPerSample = s.bitsPerSample := rfl
@[simp] theorem consumeHeader_numSamples (s : State) : (consumeHeader s).numSamples = s.numSamples := rfl
@[simp] theorem consumeHeader_numGroups (s : State) : (consumeHeader s).numGroups = s.numGroups := rfl
@[simp] theorem consumeHeader_dataOffset (s : State) : (consumeHeader s).dataOffset = s.dataOffset := rfl
@[simp] theorem consumeHeader_offtab (s : State) : (consumeHeader s).offtab = s.offtab := rfl
@[simp] theorem consumeHeader_st (s : State) : (consumeHeader s).st = s.st := rfl
@[simp] theorem consumeHeader_phase (s : State) : (consumeHeader s).phase = s.phase := rfl
@[simp] theorem consumeHeader_gIdx (s : State) : (consumeHeader s).gIdx = s.gIdx := rfl
@[simp] theorem consumeHeader_cIdx (s : State) : (consumeHeader s).cIdx = s.cIdx := rfl
@[simp] theorem consumeHeader_cur (s : State) : (consumeHeader s).cur = s.cur + 16 := rfl
@[simp] theorem consumeHeader_base (s : State) : (consumeHeader s).base = s.base := rfl
@[simp] theorem consumeHeader_bits (s : State) : (consumeHeader s).bits = s.bits := rfl
@[simp] theorem consumeHeader_flags (s : State) : (consumeHeader s).flags = s.flags := rfl
@[simp] theorem consumeHeader_mode (s : State) : (consumeHeader s).mode = s.mode := rfl
@[simp] theorem consumeHeader_w (s : State) : (consumeHeader s).w = s.w := rfl
@[simp] theorem consumeHeader_pay (s : State) : (consumeHeader s).pay = s.pay := rfl
@[simp] theorem consumeHeader_payLen (s : State) : (consumeHeader s).payLen = s.payLen := rfl
@[simp] theorem consumeHeader_unp (s : State) : (consumeHeader s).unp = s.unp := rfl
@[simp] theorem consumeHeader_prev (s : State) : (consumeHeader s).prev = s.prev := rfl
@[simp] theorem consumeHeader_sbuf (s : State) : (consumeHeader s).sbuf = s.sbuf := rfl
@[simp] theorem consumeHeader_ch (s : State) : (consumeHeader s).ch = s.ch := rfl
@[simp] theorem consumeHeader_overflow (s : State) : (consumeHeader s).overflow = s.overflow := rfl
@[simp] theorem consumeHeader_fIdx (s : State) : (consumeHeader s).fIdx = s.fIdx := rfl
@[simp] theorem consumeHeader_ovf (s : State) : (consumeHeader s).ovf = s.ovf := rfl
@[simp] theorem consumeHeader_exc (s : State) : (consumeHeader s).exc = s.exc := rfl
@[simp] theorem consumeHeader_errCode (s : State) : (consumeHeader s).errCode = s.errCode := rfl
@[simp] theorem consumeHeader_errGroup (s : State) : (consumeHeader s).errGroup = s.errGroup := rfl
@[simp] theorem consumeHeader_errChan (s : State) : (consumeHeader s).errChan = s.errChan := rfl
@[simp] theorem consumeHeader_errAddr (s : State) : (consumeHeader s).errAddr = s.errAddr := rfl
@[simp] theorem consumeHeader_out (s : State) : (consumeHeader s).out = s.out := rfl
@[simp] theorem consumeHeader_taken (s : State) : (consumeHeader s).taken = s.taken := rfl
@[simp] theorem consumeHeader_lastTaken (s : State) : (consumeHeader s).lastTaken = s.lastTaken := rfl
@[simp] theorem consumeHeader_fresh (s : State) : (consumeHeader s).fresh = s.fresh := rfl

/-! `latchHeader` -/

@[simp] theorem latchHeader_par (b : BitVec 32) (x f : BitVec 16) (s : State) : (latchHeader b x f s).par = s.par
    := rfl
@[simp] theorem latchHeader_src (b : BitVec 32) (x f : BitVec 16) (s : State) : (latchHeader b x f s).src = s.src
    := rfl
@[simp] theorem latchHeader_host (b : BitVec 32) (x f : BitVec 16) (s : State) :
    (latchHeader b x f s).host =
      s.host := rfl
@[simp] theorem latchHeader_rdata (b : BitVec 32) (x f : BitVec 16) (s : State) :
    (latchHeader b x f s).rdata =
      s.rdata := rfl
@[simp] theorem latchHeader_channels (b : BitVec 32) (x f : BitVec 16) (s : State) :
    (latchHeader b x f s).channels =
      s.channels := rfl
@[simp] theorem latchHeader_bitsPerSample (b : BitVec 32) (x f : BitVec 16) (s : State) :
    (latchHeader b x f s).bitsPerSample =
      s.bitsPerSample := rfl
@[simp] theorem latchHeader_numSamples (b : BitVec 32) (x f : BitVec 16) (s : State) :
    (latchHeader b x f s).numSamples =
      s.numSamples := rfl
@[simp] theorem latchHeader_numGroups (b : BitVec 32) (x f : BitVec 16) (s : State) :
    (latchHeader b x f s).numGroups =
      s.numGroups := rfl
@[simp] theorem latchHeader_dataOffset (b : BitVec 32) (x f : BitVec 16) (s : State) :
    (latchHeader b x f s).dataOffset =
      s.dataOffset := rfl
@[simp] theorem latchHeader_offtab (b : BitVec 32) (x f : BitVec 16) (s : State) :
    (latchHeader b x f s).offtab =
      s.offtab := rfl
@[simp] theorem latchHeader_st (b : BitVec 32) (x f : BitVec 16) (s : State) : (latchHeader b x f s).st = s.st := rfl
@[simp] theorem latchHeader_phase (b : BitVec 32) (x f : BitVec 16) (s : State) :
    (latchHeader b x f s).phase =
      s.phase := rfl
@[simp] theorem latchHeader_gIdx (b : BitVec 32) (x f : BitVec 16) (s : State) :
    (latchHeader b x f s).gIdx =
      s.gIdx := rfl
@[simp] theorem latchHeader_cIdx (b : BitVec 32) (x f : BitVec 16) (s : State) :
    (latchHeader b x f s).cIdx =
      s.cIdx := rfl
@[simp] theorem latchHeader_cur (b : BitVec 32) (x f : BitVec 16) (s : State) : (latchHeader b x f s).cur = s.cur
    := rfl
@[simp] theorem latchHeader_base (b : BitVec 32) (x f : BitVec 16) (s : State) : (latchHeader b x f s).base = b := rfl
@[simp] theorem latchHeader_bits (b : BitVec 32) (x f : BitVec 16) (s : State) : (latchHeader b x f s).bits = x := rfl
@[simp] theorem latchHeader_flags (b : BitVec 32) (x f : BitVec 16) (s : State) : (latchHeader b x f s).flags = f
    := rfl
@[simp] theorem latchHeader_mode (b : BitVec 32) (x f : BitVec 16) (s : State) :
    (latchHeader b x f s).mode =
      s.mode := rfl
@[simp] theorem latchHeader_w (b : BitVec 32) (x f : BitVec 16) (s : State) : (latchHeader b x f s).w = s.w := rfl
@[simp] theorem latchHeader_pay (b : BitVec 32) (x f : BitVec 16) (s : State) : (latchHeader b x f s).pay = s.pay
    := rfl
@[simp] theorem latchHeader_payLen (b : BitVec 32) (x f : BitVec 16) (s : State) :
    (latchHeader b x f s).payLen =
      s.payLen := rfl
@[simp] theorem latchHeader_unp (b : BitVec 32) (x f : BitVec 16) (s : State) : (latchHeader b x f s).unp = s.unp
    := rfl
@[simp] theorem latchHeader_prev (b : BitVec 32) (x f : BitVec 16) (s : State) :
    (latchHeader b x f s).prev =
      s.prev := rfl
@[simp] theorem latchHeader_sbuf (b : BitVec 32) (x f : BitVec 16) (s : State) :
    (latchHeader b x f s).sbuf =
      s.sbuf := rfl
@[simp] theorem latchHeader_ch (b : BitVec 32) (x f : BitVec 16) (s : State) : (latchHeader b x f s).ch = s.ch := rfl
@[simp] theorem latchHeader_overflow (b : BitVec 32) (x f : BitVec 16) (s : State) :
    (latchHeader b x f s).overflow =
      s.overflow := rfl
@[simp] theorem latchHeader_fIdx (b : BitVec 32) (x f : BitVec 16) (s : State) :
    (latchHeader b x f s).fIdx =
      s.fIdx := rfl
@[simp] theorem latchHeader_ovf (b : BitVec 32) (x f : BitVec 16) (s : State) : (latchHeader b x f s).ovf = s.ovf
    := rfl
@[simp] theorem latchHeader_exc (b : BitVec 32) (x f : BitVec 16) (s : State) : (latchHeader b x f s).exc = s.exc
    := rfl
@[simp] theorem latchHeader_errCode (b : BitVec 32) (x f : BitVec 16) (s : State) :
    (latchHeader b x f s).errCode =
      s.errCode := rfl
@[simp] theorem latchHeader_errGroup (b : BitVec 32) (x f : BitVec 16) (s : State) :
    (latchHeader b x f s).errGroup =
      s.errGroup := rfl
@[simp] theorem latchHeader_errChan (b : BitVec 32) (x f : BitVec 16) (s : State) :
    (latchHeader b x f s).errChan =
      s.errChan := rfl
@[simp] theorem latchHeader_errAddr (b : BitVec 32) (x f : BitVec 16) (s : State) :
    (latchHeader b x f s).errAddr =
      s.errAddr := rfl
@[simp] theorem latchHeader_out (b : BitVec 32) (x f : BitVec 16) (s : State) : (latchHeader b x f s).out = s.out
    := rfl
@[simp] theorem latchHeader_taken (b : BitVec 32) (x f : BitVec 16) (s : State) :
    (latchHeader b x f s).taken =
      s.taken := rfl
@[simp] theorem latchHeader_lastTaken (b : BitVec 32) (x f : BitVec 16) (s : State) :
    (latchHeader b x f s).lastTaken =
      s.lastTaken := rfl
@[simp] theorem latchHeader_fresh (b : BitVec 32) (x f : BitVec 16) (s : State) :
    (latchHeader b x f s).fresh =
      s.fresh := rfl

/-! `enterBlock` -/

@[simp] theorem enterBlock_par (b : BitVec 32) (x f : BitVec 16) (s : State) : (enterBlock b x f s).par = s.par := rfl
@[simp] theorem enterBlock_src (b : BitVec 32) (x f : BitVec 16) (s : State) : (enterBlock b x f s).src = s.src := rfl
@[simp] theorem enterBlock_host (b : BitVec 32) (x f : BitVec 16) (s : State) : (enterBlock b x f s).host = s.host
    := rfl
@[simp] theorem enterBlock_rdata (b : BitVec 32) (x f : BitVec 16) (s : State) :
    (enterBlock b x f s).rdata =
      s.rdata := rfl
@[simp] theorem enterBlock_channels (b : BitVec 32) (x f : BitVec 16) (s : State) :
    (enterBlock b x f s).channels =
      s.channels := rfl
@[simp] theorem enterBlock_bitsPerSample (b : BitVec 32) (x f : BitVec 16) (s : State) :
    (enterBlock b x f s).bitsPerSample =
      s.bitsPerSample := rfl
@[simp] theorem enterBlock_numSamples (b : BitVec 32) (x f : BitVec 16) (s : State) :
    (enterBlock b x f s).numSamples =
      s.numSamples := rfl
@[simp] theorem enterBlock_numGroups (b : BitVec 32) (x f : BitVec 16) (s : State) :
    (enterBlock b x f s).numGroups =
      s.numGroups := rfl
@[simp] theorem enterBlock_dataOffset (b : BitVec 32) (x f : BitVec 16) (s : State) :
    (enterBlock b x f s).dataOffset =
      s.dataOffset := rfl
@[simp] theorem enterBlock_offtab (b : BitVec 32) (x f : BitVec 16) (s : State) :
    (enterBlock b x f s).offtab =
      s.offtab := rfl
@[simp] theorem enterBlock_st (b : BitVec 32) (x f : BitVec 16) (s : State) : (enterBlock b x f s).st = s.st := rfl
@[simp] theorem enterBlock_phase (b : BitVec 32) (x f : BitVec 16) (s : State) :
    (enterBlock b x f s).phase =
      s.phase := rfl
@[simp] theorem enterBlock_gIdx (b : BitVec 32) (x f : BitVec 16) (s : State) : (enterBlock b x f s).gIdx = s.gIdx
    := rfl
@[simp] theorem enterBlock_cIdx (b : BitVec 32) (x f : BitVec 16) (s : State) : (enterBlock b x f s).cIdx = s.cIdx
    := rfl
@[simp] theorem enterBlock_cur (b : BitVec 32) (x f : BitVec 16) (s : State) :
    (enterBlock b x f s).cur =
      s.cur + 16 := rfl
@[simp] theorem enterBlock_base (b : BitVec 32) (x f : BitVec 16) (s : State) : (enterBlock b x f s).base = b := rfl
@[simp] theorem enterBlock_bits (b : BitVec 32) (x f : BitVec 16) (s : State) : (enterBlock b x f s).bits = x := rfl
@[simp] theorem enterBlock_flags (b : BitVec 32) (x f : BitVec 16) (s : State) : (enterBlock b x f s).flags = f := rfl
@[simp] theorem enterBlock_mode (b : BitVec 32) (x f : BitVec 16) (s : State) : (enterBlock b x f s).mode = s.mode
    := rfl
@[simp] theorem enterBlock_w (b : BitVec 32) (x f : BitVec 16) (s : State) : (enterBlock b x f s).w = s.w := rfl
@[simp] theorem enterBlock_pay (b : BitVec 32) (x f : BitVec 16) (s : State) : (enterBlock b x f s).pay = s.pay := rfl
@[simp] theorem enterBlock_payLen (b : BitVec 32) (x f : BitVec 16) (s : State) :
    (enterBlock b x f s).payLen =
      s.payLen := rfl
@[simp] theorem enterBlock_unp (b : BitVec 32) (x f : BitVec 16) (s : State) : (enterBlock b x f s).unp = s.unp := rfl
@[simp] theorem enterBlock_prev (b : BitVec 32) (x f : BitVec 16) (s : State) : (enterBlock b x f s).prev = s.prev
    := rfl
@[simp] theorem enterBlock_sbuf (b : BitVec 32) (x f : BitVec 16) (s : State) : (enterBlock b x f s).sbuf = s.sbuf
    := rfl
@[simp] theorem enterBlock_ch (b : BitVec 32) (x f : BitVec 16) (s : State) : (enterBlock b x f s).ch = s.ch := rfl
@[simp] theorem enterBlock_overflow (b : BitVec 32) (x f : BitVec 16) (s : State) :
    (enterBlock b x f s).overflow =
      s.overflow := rfl
@[simp] theorem enterBlock_fIdx (b : BitVec 32) (x f : BitVec 16) (s : State) : (enterBlock b x f s).fIdx = s.fIdx
    := rfl
@[simp] theorem enterBlock_ovf (b : BitVec 32) (x f : BitVec 16) (s : State) : (enterBlock b x f s).ovf = s.ovf := rfl
@[simp] theorem enterBlock_exc (b : BitVec 32) (x f : BitVec 16) (s : State) : (enterBlock b x f s).exc = s.exc := rfl
@[simp] theorem enterBlock_errCode (b : BitVec 32) (x f : BitVec 16) (s : State) :
    (enterBlock b x f s).errCode =
      s.errCode := rfl
@[simp] theorem enterBlock_errGroup (b : BitVec 32) (x f : BitVec 16) (s : State) :
    (enterBlock b x f s).errGroup =
      s.errGroup := rfl
@[simp] theorem enterBlock_errChan (b : BitVec 32) (x f : BitVec 16) (s : State) :
    (enterBlock b x f s).errChan =
      s.errChan := rfl
@[simp] theorem enterBlock_errAddr (b : BitVec 32) (x f : BitVec 16) (s : State) :
    (enterBlock b x f s).errAddr =
      s.errAddr := rfl
@[simp] theorem enterBlock_out (b : BitVec 32) (x f : BitVec 16) (s : State) : (enterBlock b x f s).out = s.out := rfl
@[simp] theorem enterBlock_taken (b : BitVec 32) (x f : BitVec 16) (s : State) :
    (enterBlock b x f s).taken =
      s.taken := rfl
@[simp] theorem enterBlock_lastTaken (b : BitVec 32) (x f : BitVec 16) (s : State) :
    (enterBlock b x f s).lastTaken =
      s.lastTaken := rfl
@[simp] theorem enterBlock_fresh (b : BitVec 32) (x f : BitVec 16) (s : State) :
    (enterBlock b x f s).fresh =
      s.fresh := rfl

/-! `setMode` -/

@[simp] theorem setMode_par (m : Mode) (n : Nat) (s : State) : (setMode m n s).par = s.par := rfl
@[simp] theorem setMode_src (m : Mode) (n : Nat) (s : State) : (setMode m n s).src = s.src := rfl
@[simp] theorem setMode_host (m : Mode) (n : Nat) (s : State) : (setMode m n s).host = s.host := rfl
@[simp] theorem setMode_rdata (m : Mode) (n : Nat) (s : State) : (setMode m n s).rdata = s.rdata := rfl
@[simp] theorem setMode_channels (m : Mode) (n : Nat) (s : State) : (setMode m n s).channels = s.channels := rfl
@[simp] theorem setMode_bitsPerSample (m : Mode) (n : Nat) (s : State) :
    (setMode m n s).bitsPerSample =
      s.bitsPerSample := rfl
@[simp] theorem setMode_numSamples (m : Mode) (n : Nat) (s : State) : (setMode m n s).numSamples = s.numSamples := rfl
@[simp] theorem setMode_numGroups (m : Mode) (n : Nat) (s : State) : (setMode m n s).numGroups = s.numGroups := rfl
@[simp] theorem setMode_dataOffset (m : Mode) (n : Nat) (s : State) : (setMode m n s).dataOffset = s.dataOffset := rfl
@[simp] theorem setMode_offtab (m : Mode) (n : Nat) (s : State) : (setMode m n s).offtab = s.offtab := rfl
@[simp] theorem setMode_st (m : Mode) (n : Nat) (s : State) : (setMode m n s).st = s.st := rfl
@[simp] theorem setMode_phase (m : Mode) (n : Nat) (s : State) : (setMode m n s).phase = s.phase := rfl
@[simp] theorem setMode_gIdx (m : Mode) (n : Nat) (s : State) : (setMode m n s).gIdx = s.gIdx := rfl
@[simp] theorem setMode_cIdx (m : Mode) (n : Nat) (s : State) : (setMode m n s).cIdx = s.cIdx := rfl
@[simp] theorem setMode_cur (m : Mode) (n : Nat) (s : State) : (setMode m n s).cur = s.cur := rfl
@[simp] theorem setMode_base (m : Mode) (n : Nat) (s : State) : (setMode m n s).base = s.base := rfl
@[simp] theorem setMode_bits (m : Mode) (n : Nat) (s : State) : (setMode m n s).bits = s.bits := rfl
@[simp] theorem setMode_flags (m : Mode) (n : Nat) (s : State) : (setMode m n s).flags = s.flags := rfl
@[simp] theorem setMode_mode (m : Mode) (n : Nat) (s : State) : (setMode m n s).mode = m := rfl
@[simp] theorem setMode_w (m : Mode) (n : Nat) (s : State) : (setMode m n s).w = n := rfl
@[simp] theorem setMode_pay (m : Mode) (n : Nat) (s : State) : (setMode m n s).pay = s.pay := rfl
@[simp] theorem setMode_payLen (m : Mode) (n : Nat) (s : State) :
    (setMode m n s).payLen =
      payloadLength m n s.bitsPerSample := rfl
@[simp] theorem setMode_unp (m : Mode) (n : Nat) (s : State) : (setMode m n s).unp = s.unp := rfl
@[simp] theorem setMode_prev (m : Mode) (n : Nat) (s : State) : (setMode m n s).prev = s.prev := rfl
@[simp] theorem setMode_sbuf (m : Mode) (n : Nat) (s : State) : (setMode m n s).sbuf = s.sbuf := rfl
@[simp] theorem setMode_ch (m : Mode) (n : Nat) (s : State) : (setMode m n s).ch = s.ch := rfl
@[simp] theorem setMode_overflow (m : Mode) (n : Nat) (s : State) : (setMode m n s).overflow = s.overflow := rfl
@[simp] theorem setMode_fIdx (m : Mode) (n : Nat) (s : State) : (setMode m n s).fIdx = s.fIdx := rfl
@[simp] theorem setMode_ovf (m : Mode) (n : Nat) (s : State) : (setMode m n s).ovf = s.ovf := rfl
@[simp] theorem setMode_exc (m : Mode) (n : Nat) (s : State) : (setMode m n s).exc = s.exc := rfl
@[simp] theorem setMode_errCode (m : Mode) (n : Nat) (s : State) : (setMode m n s).errCode = s.errCode := rfl
@[simp] theorem setMode_errGroup (m : Mode) (n : Nat) (s : State) : (setMode m n s).errGroup = s.errGroup := rfl
@[simp] theorem setMode_errChan (m : Mode) (n : Nat) (s : State) : (setMode m n s).errChan = s.errChan := rfl
@[simp] theorem setMode_errAddr (m : Mode) (n : Nat) (s : State) : (setMode m n s).errAddr = s.errAddr := rfl
@[simp] theorem setMode_out (m : Mode) (n : Nat) (s : State) : (setMode m n s).out = s.out := rfl
@[simp] theorem setMode_taken (m : Mode) (n : Nat) (s : State) : (setMode m n s).taken = s.taken := rfl
@[simp] theorem setMode_lastTaken (m : Mode) (n : Nat) (s : State) : (setMode m n s).lastTaken = s.lastTaken := rfl
@[simp] theorem setMode_fresh (m : Mode) (n : Nat) (s : State) : (setMode m n s).fresh = s.fresh := rfl

/-! `seek` -/

@[simp] theorem seek_par (s : State) : (seek s).par = s.par := rfl
@[simp] theorem seek_src (s : State) : (seek s).src = s.src := rfl
@[simp] theorem seek_host (s : State) : (seek s).host = s.host := rfl
@[simp] theorem seek_rdata (s : State) : (seek s).rdata = s.rdata := rfl
@[simp] theorem seek_channels (s : State) : (seek s).channels = s.channels := rfl
@[simp] theorem seek_bitsPerSample (s : State) : (seek s).bitsPerSample = s.bitsPerSample := rfl
@[simp] theorem seek_numSamples (s : State) : (seek s).numSamples = s.numSamples := rfl
@[simp] theorem seek_numGroups (s : State) : (seek s).numGroups = s.numGroups := rfl
@[simp] theorem seek_dataOffset (s : State) : (seek s).dataOffset = s.dataOffset := rfl
@[simp] theorem seek_offtab (s : State) : (seek s).offtab = s.offtab := rfl
@[simp] theorem seek_st (s : State) : (seek s).st = s.st := rfl
@[simp] theorem seek_phase (s : State) : (seek s).phase = .block := rfl
@[simp] theorem seek_gIdx (s : State) : (seek s).gIdx = s.gIdx := rfl
@[simp] theorem seek_cIdx (s : State) : (seek s).cIdx = 0 := rfl
@[simp] theorem seek_cur (s : State) :
    (seek s).cur =
      s.dataOffset.setWidth 64 + (s.offtab.read s.gIdx).setWidth 64 := rfl
@[simp] theorem seek_base (s : State) : (seek s).base = s.base := rfl
@[simp] theorem seek_bits (s : State) : (seek s).bits = s.bits := rfl
@[simp] theorem seek_flags (s : State) : (seek s).flags = s.flags := rfl
@[simp] theorem seek_mode (s : State) : (seek s).mode = s.mode := rfl
@[simp] theorem seek_w (s : State) : (seek s).w = s.w := rfl
@[simp] theorem seek_pay (s : State) : (seek s).pay = s.pay := rfl
@[simp] theorem seek_payLen (s : State) : (seek s).payLen = s.payLen := rfl
@[simp] theorem seek_unp (s : State) : (seek s).unp = s.unp := rfl
@[simp] theorem seek_prev (s : State) : (seek s).prev = s.prev := rfl
@[simp] theorem seek_sbuf (s : State) : (seek s).sbuf = s.sbuf := rfl
@[simp] theorem seek_ch (s : State) : (seek s).ch = s.ch := rfl
@[simp] theorem seek_overflow (s : State) : (seek s).overflow = s.overflow := rfl
@[simp] theorem seek_fIdx (s : State) : (seek s).fIdx = s.fIdx := rfl
@[simp] theorem seek_ovf (s : State) : (seek s).ovf = s.ovf := rfl
@[simp] theorem seek_exc (s : State) : (seek s).exc = s.exc := rfl
@[simp] theorem seek_errCode (s : State) : (seek s).errCode = s.errCode := rfl
@[simp] theorem seek_errGroup (s : State) : (seek s).errGroup = s.errGroup := rfl
@[simp] theorem seek_errChan (s : State) : (seek s).errChan = s.errChan := rfl
@[simp] theorem seek_errAddr (s : State) : (seek s).errAddr = s.errAddr := rfl
@[simp] theorem seek_out (s : State) : (seek s).out = s.out := rfl
@[simp] theorem seek_taken (s : State) : (seek s).taken = s.taken := rfl
@[simp] theorem seek_lastTaken (s : State) : (seek s).lastTaken = s.lastTaken := rfl
@[simp] theorem seek_fresh (s : State) : (seek s).fresh = s.fresh := rfl

/-! `appendBlock` -/

@[simp] theorem appendBlock_par (s : State) : (appendBlock s).par = s.par := rfl
@[simp] theorem appendBlock_src (s : State) : (appendBlock s).src = s.src := rfl
@[simp] theorem appendBlock_host (s : State) : (appendBlock s).host = s.host := rfl
@[simp] theorem appendBlock_rdata (s : State) : (appendBlock s).rdata = s.rdata := rfl
@[simp] theorem appendBlock_channels (s : State) : (appendBlock s).channels = s.channels := rfl
@[simp] theorem appendBlock_bitsPerSample (s : State) : (appendBlock s).bitsPerSample = s.bitsPerSample := rfl
@[simp] theorem appendBlock_numSamples (s : State) : (appendBlock s).numSamples = s.numSamples := rfl
@[simp] theorem appendBlock_numGroups (s : State) : (appendBlock s).numGroups = s.numGroups := rfl
@[simp] theorem appendBlock_dataOffset (s : State) : (appendBlock s).dataOffset = s.dataOffset := rfl
@[simp] theorem appendBlock_offtab (s : State) : (appendBlock s).offtab = s.offtab := rfl
@[simp] theorem appendBlock_st (s : State) : (appendBlock s).st = s.st := rfl
@[simp] theorem appendBlock_phase (s : State) : (appendBlock s).phase = s.phase := rfl
@[simp] theorem appendBlock_gIdx (s : State) : (appendBlock s).gIdx = s.gIdx := rfl
@[simp] theorem appendBlock_cIdx (s : State) : (appendBlock s).cIdx = s.cIdx := rfl
@[simp] theorem appendBlock_cur (s : State) : (appendBlock s).cur = s.cur := rfl
@[simp] theorem appendBlock_base (s : State) : (appendBlock s).base = s.base := rfl
@[simp] theorem appendBlock_bits (s : State) : (appendBlock s).bits = s.bits := rfl
@[simp] theorem appendBlock_flags (s : State) : (appendBlock s).flags = s.flags := rfl
@[simp] theorem appendBlock_mode (s : State) : (appendBlock s).mode = s.mode := rfl
@[simp] theorem appendBlock_w (s : State) : (appendBlock s).w = s.w := rfl
@[simp] theorem appendBlock_pay (s : State) : (appendBlock s).pay = s.pay := rfl
@[simp] theorem appendBlock_payLen (s : State) : (appendBlock s).payLen = s.payLen := rfl
@[simp] theorem appendBlock_unp (s : State) : (appendBlock s).unp = s.unp := rfl
@[simp] theorem appendBlock_prev (s : State) : (appendBlock s).prev = s.prev := rfl
@[simp] theorem appendBlock_sbuf (s : State) : (appendBlock s).sbuf = s.sbuf := rfl
@[simp] theorem appendBlock_ch (s : State) :
    (appendBlock s).ch =
      appendChannel s.ch s.cIdx (keptSamples (inFinalGroup s) s.par.trimPolicy s.overflow 0 s.sbuf) := rfl
@[simp] theorem appendBlock_overflow (s : State) : (appendBlock s).overflow = s.overflow := rfl
@[simp] theorem appendBlock_fIdx (s : State) : (appendBlock s).fIdx = s.fIdx := rfl
@[simp] theorem appendBlock_ovf (s : State) : (appendBlock s).ovf = s.ovf := rfl
@[simp] theorem appendBlock_exc (s : State) : (appendBlock s).exc = s.exc := rfl
@[simp] theorem appendBlock_errCode (s : State) : (appendBlock s).errCode = s.errCode := rfl
@[simp] theorem appendBlock_errGroup (s : State) : (appendBlock s).errGroup = s.errGroup := rfl
@[simp] theorem appendBlock_errChan (s : State) : (appendBlock s).errChan = s.errChan := rfl
@[simp] theorem appendBlock_errAddr (s : State) : (appendBlock s).errAddr = s.errAddr := rfl
@[simp] theorem appendBlock_out (s : State) : (appendBlock s).out = s.out := rfl
@[simp] theorem appendBlock_taken (s : State) : (appendBlock s).taken = s.taken := rfl
@[simp] theorem appendBlock_lastTaken (s : State) : (appendBlock s).lastTaken = s.lastTaken := rfl
@[simp] theorem appendBlock_fresh (s : State) : (appendBlock s).fresh = s.fresh := rfl

/-! `startClears` -/

@[simp] theorem startClears_par (s : State) : (startClears s).par = s.par := rfl
@[simp] theorem startClears_src (s : State) : (startClears s).src = s.src := rfl
@[simp] theorem startClears_host (s : State) : (startClears s).host = s.host := rfl
@[simp] theorem startClears_rdata (s : State) : (startClears s).rdata = s.rdata := rfl
@[simp] theorem startClears_channels (s : State) : (startClears s).channels = s.channels := rfl
@[simp] theorem startClears_bitsPerSample (s : State) : (startClears s).bitsPerSample = s.bitsPerSample := rfl
@[simp] theorem startClears_numSamples (s : State) : (startClears s).numSamples = s.numSamples := rfl
@[simp] theorem startClears_numGroups (s : State) : (startClears s).numGroups = s.numGroups := rfl
@[simp] theorem startClears_dataOffset (s : State) : (startClears s).dataOffset = s.dataOffset := rfl
@[simp] theorem startClears_offtab (s : State) : (startClears s).offtab = s.offtab := rfl
@[simp] theorem startClears_st (s : State) : (startClears s).st = s.st := rfl
@[simp] theorem startClears_phase (s : State) : (startClears s).phase = s.phase := rfl
@[simp] theorem startClears_gIdx (s : State) : (startClears s).gIdx = 0 := rfl
@[simp] theorem startClears_cIdx (s : State) : (startClears s).cIdx = 0 := rfl
@[simp] theorem startClears_cur (s : State) : (startClears s).cur = 0 := rfl
@[simp] theorem startClears_base (s : State) : (startClears s).base = s.base := rfl
@[simp] theorem startClears_bits (s : State) : (startClears s).bits = s.bits := rfl
@[simp] theorem startClears_flags (s : State) : (startClears s).flags = s.flags := rfl
@[simp] theorem startClears_mode (s : State) : (startClears s).mode = s.mode := rfl
@[simp] theorem startClears_w (s : State) : (startClears s).w = s.w := rfl
@[simp] theorem startClears_pay (s : State) : (startClears s).pay = s.pay := rfl
@[simp] theorem startClears_payLen (s : State) : (startClears s).payLen = s.payLen := rfl
@[simp] theorem startClears_unp (s : State) : (startClears s).unp = s.unp := rfl
@[simp] theorem startClears_prev (s : State) : (startClears s).prev = s.prev := rfl
@[simp] theorem startClears_sbuf (s : State) : (startClears s).sbuf = s.sbuf := rfl
@[simp] theorem startClears_ch (s : State) : (startClears s).ch = [] := rfl
@[simp] theorem startClears_overflow (s : State) : (startClears s).overflow = s.overflow := rfl
@[simp] theorem startClears_fIdx (s : State) : (startClears s).fIdx = 0 := rfl
@[simp] theorem startClears_ovf (s : State) : (startClears s).ovf = false := rfl
@[simp] theorem startClears_exc (s : State) : (startClears s).exc = false := rfl
@[simp] theorem startClears_errCode (s : State) : (startClears s).errCode = 0 := rfl
@[simp] theorem startClears_errGroup (s : State) : (startClears s).errGroup = 0 := rfl
@[simp] theorem startClears_errChan (s : State) : (startClears s).errChan = 0 := rfl
@[simp] theorem startClears_errAddr (s : State) : (startClears s).errAddr = 0 := rfl
@[simp] theorem startClears_out (s : State) : (startClears s).out = s.out := rfl
@[simp] theorem startClears_taken (s : State) : (startClears s).taken = s.taken := rfl
@[simp] theorem startClears_lastTaken (s : State) : (startClears s).lastTaken = s.lastTaken := rfl
@[simp] theorem startClears_fresh (s : State) : (startClears s).fresh = s.fresh := rfl

/-! `openSession` -/

@[simp] theorem openSession_par (s : State) : (openSession s).par = s.par := rfl
@[simp] theorem openSession_src (s : State) : (openSession s).src = s.src := rfl
@[simp] theorem openSession_host (s : State) : (openSession s).host = s.host := rfl
@[simp] theorem openSession_rdata (s : State) : (openSession s).rdata = s.rdata := rfl
@[simp] theorem openSession_channels (s : State) : (openSession s).channels = s.channels := rfl
@[simp] theorem openSession_bitsPerSample (s : State) : (openSession s).bitsPerSample = s.bitsPerSample := rfl
@[simp] theorem openSession_numSamples (s : State) : (openSession s).numSamples = s.numSamples := rfl
@[simp] theorem openSession_numGroups (s : State) : (openSession s).numGroups = s.numGroups := rfl
@[simp] theorem openSession_dataOffset (s : State) : (openSession s).dataOffset = s.dataOffset := rfl
@[simp] theorem openSession_offtab (s : State) : (openSession s).offtab = s.offtab := rfl
@[simp] theorem openSession_st (s : State) : (openSession s).st = .busy := rfl
@[simp] theorem openSession_phase (s : State) : (openSession s).phase = if s.numGroups = 0 then .check else .seek
    := rfl
@[simp] theorem openSession_gIdx (s : State) : (openSession s).gIdx = s.gIdx := rfl
@[simp] theorem openSession_cIdx (s : State) : (openSession s).cIdx = s.cIdx := rfl
@[simp] theorem openSession_cur (s : State) : (openSession s).cur = s.cur := rfl
@[simp] theorem openSession_base (s : State) : (openSession s).base = s.base := rfl
@[simp] theorem openSession_bits (s : State) : (openSession s).bits = s.bits := rfl
@[simp] theorem openSession_flags (s : State) : (openSession s).flags = s.flags := rfl
@[simp] theorem openSession_mode (s : State) : (openSession s).mode = s.mode := rfl
@[simp] theorem openSession_w (s : State) : (openSession s).w = s.w := rfl
@[simp] theorem openSession_pay (s : State) : (openSession s).pay = s.pay := rfl
@[simp] theorem openSession_payLen (s : State) : (openSession s).payLen = s.payLen := rfl
@[simp] theorem openSession_unp (s : State) : (openSession s).unp = s.unp := rfl
@[simp] theorem openSession_prev (s : State) : (openSession s).prev = s.prev := rfl
@[simp] theorem openSession_sbuf (s : State) : (openSession s).sbuf = s.sbuf := rfl
@[simp] theorem openSession_ch (s : State) : (openSession s).ch = s.ch := rfl
@[simp] theorem openSession_overflow (s : State) :
    (openSession s).overflow =
      overflowCount s.numSamples.toNat s.channels.toNat := rfl
@[simp] theorem openSession_fIdx (s : State) : (openSession s).fIdx = s.fIdx := rfl
@[simp] theorem openSession_ovf (s : State) : (openSession s).ovf = s.ovf := rfl
@[simp] theorem openSession_exc (s : State) : (openSession s).exc = s.exc := rfl
@[simp] theorem openSession_errCode (s : State) : (openSession s).errCode = s.errCode := rfl
@[simp] theorem openSession_errGroup (s : State) : (openSession s).errGroup = s.errGroup := rfl
@[simp] theorem openSession_errChan (s : State) : (openSession s).errChan = s.errChan := rfl
@[simp] theorem openSession_errAddr (s : State) : (openSession s).errAddr = s.errAddr := rfl
@[simp] theorem openSession_out (s : State) : (openSession s).out = s.out := rfl
@[simp] theorem openSession_taken (s : State) : (openSession s).taken = s.taken := rfl
@[simp] theorem openSession_lastTaken (s : State) : (openSession s).lastTaken = s.lastTaken := rfl
@[simp] theorem openSession_fresh (s : State) : (openSession s).fresh = s.fresh := rfl

/-! `finishSession` -/

@[simp] theorem finishSession_par (s : State) : (finishSession s).par = s.par := rfl
@[simp] theorem finishSession_src (s : State) : (finishSession s).src = s.src := rfl
@[simp] theorem finishSession_host (s : State) : (finishSession s).host = s.host := rfl
@[simp] theorem finishSession_rdata (s : State) : (finishSession s).rdata = s.rdata := rfl
@[simp] theorem finishSession_channels (s : State) : (finishSession s).channels = s.channels := rfl
@[simp] theorem finishSession_bitsPerSample (s : State) : (finishSession s).bitsPerSample = s.bitsPerSample := rfl
@[simp] theorem finishSession_numSamples (s : State) : (finishSession s).numSamples = s.numSamples := rfl
@[simp] theorem finishSession_numGroups (s : State) : (finishSession s).numGroups = s.numGroups := rfl
@[simp] theorem finishSession_dataOffset (s : State) : (finishSession s).dataOffset = s.dataOffset := rfl
@[simp] theorem finishSession_offtab (s : State) : (finishSession s).offtab = s.offtab := rfl
@[simp] theorem finishSession_st (s : State) : (finishSession s).st = .done := rfl
@[simp] theorem finishSession_phase (s : State) : (finishSession s).phase = s.phase := rfl
@[simp] theorem finishSession_gIdx (s : State) : (finishSession s).gIdx = s.gIdx := rfl
@[simp] theorem finishSession_cIdx (s : State) : (finishSession s).cIdx = s.cIdx := rfl
@[simp] theorem finishSession_cur (s : State) : (finishSession s).cur = s.cur := rfl
@[simp] theorem finishSession_base (s : State) : (finishSession s).base = s.base := rfl
@[simp] theorem finishSession_bits (s : State) : (finishSession s).bits = s.bits := rfl
@[simp] theorem finishSession_flags (s : State) : (finishSession s).flags = s.flags := rfl
@[simp] theorem finishSession_mode (s : State) : (finishSession s).mode = s.mode := rfl
@[simp] theorem finishSession_w (s : State) : (finishSession s).w = s.w := rfl
@[simp] theorem finishSession_pay (s : State) : (finishSession s).pay = s.pay := rfl
@[simp] theorem finishSession_payLen (s : State) : (finishSession s).payLen = s.payLen := rfl
@[simp] theorem finishSession_unp (s : State) : (finishSession s).unp = s.unp := rfl
@[simp] theorem finishSession_prev (s : State) : (finishSession s).prev = s.prev := rfl
@[simp] theorem finishSession_sbuf (s : State) : (finishSession s).sbuf = s.sbuf := rfl
@[simp] theorem finishSession_ch (s : State) : (finishSession s).ch = [] := rfl
@[simp] theorem finishSession_overflow (s : State) : (finishSession s).overflow = s.overflow := rfl
@[simp] theorem finishSession_fIdx (s : State) : (finishSession s).fIdx = s.fIdx := rfl
@[simp] theorem finishSession_ovf (s : State) : (finishSession s).ovf = s.ovf := rfl
@[simp] theorem finishSession_exc (s : State) : (finishSession s).exc = s.exc := rfl
@[simp] theorem finishSession_errCode (s : State) : (finishSession s).errCode = s.errCode := rfl
@[simp] theorem finishSession_errGroup (s : State) : (finishSession s).errGroup = s.errGroup := rfl
@[simp] theorem finishSession_errChan (s : State) : (finishSession s).errChan = s.errChan := rfl
@[simp] theorem finishSession_errAddr (s : State) : (finishSession s).errAddr = s.errAddr := rfl
@[simp] theorem finishSession_out (s : State) : (finishSession s).out = s.out := rfl
@[simp] theorem finishSession_taken (s : State) : (finishSession s).taken = s.taken := rfl
@[simp] theorem finishSession_lastTaken (s : State) : (finishSession s).lastTaken = s.lastTaken := rfl
@[simp] theorem finishSession_fresh (s : State) : (finishSession s).fresh = s.fresh := rfl

/-! `decodeRaw` -/

@[simp] theorem decodeRaw_par (s : State) : (decodeRaw s).par = s.par := by dsimp only [decodeRaw]
@[simp] theorem decodeRaw_src (s : State) : (decodeRaw s).src = s.src := by dsimp only [decodeRaw]
@[simp] theorem decodeRaw_host (s : State) : (decodeRaw s).host = s.host := by dsimp only [decodeRaw]
@[simp] theorem decodeRaw_rdata (s : State) : (decodeRaw s).rdata = s.rdata := by dsimp only [decodeRaw]
@[simp] theorem decodeRaw_channels (s : State) : (decodeRaw s).channels = s.channels := by dsimp only [decodeRaw]
@[simp] theorem decodeRaw_bitsPerSample (s : State) : (decodeRaw s).bitsPerSample = s.bitsPerSample := by
  dsimp only [decodeRaw]
@[simp] theorem decodeRaw_numSamples (s : State) : (decodeRaw s).numSamples = s.numSamples := by
  dsimp only [decodeRaw]
@[simp] theorem decodeRaw_numGroups (s : State) : (decodeRaw s).numGroups = s.numGroups := by dsimp only [decodeRaw]
@[simp] theorem decodeRaw_dataOffset (s : State) : (decodeRaw s).dataOffset = s.dataOffset := by
  dsimp only [decodeRaw]
@[simp] theorem decodeRaw_offtab (s : State) : (decodeRaw s).offtab = s.offtab := by dsimp only [decodeRaw]
@[simp] theorem decodeRaw_st (s : State) : (decodeRaw s).st = s.st := by dsimp only [decodeRaw]
@[simp] theorem decodeRaw_phase (s : State) : (decodeRaw s).phase = s.phase := by dsimp only [decodeRaw]
@[simp] theorem decodeRaw_gIdx (s : State) : (decodeRaw s).gIdx = s.gIdx := by dsimp only [decodeRaw]
@[simp] theorem decodeRaw_cIdx (s : State) : (decodeRaw s).cIdx = s.cIdx := by dsimp only [decodeRaw]
@[simp] theorem decodeRaw_cur (s : State) : (decodeRaw s).cur = s.cur := by dsimp only [decodeRaw]
@[simp] theorem decodeRaw_base (s : State) : (decodeRaw s).base = s.base := by dsimp only [decodeRaw]
@[simp] theorem decodeRaw_bits (s : State) : (decodeRaw s).bits = s.bits := by dsimp only [decodeRaw]
@[simp] theorem decodeRaw_flags (s : State) : (decodeRaw s).flags = s.flags := by dsimp only [decodeRaw]
@[simp] theorem decodeRaw_mode (s : State) : (decodeRaw s).mode = s.mode := by dsimp only [decodeRaw]
@[simp] theorem decodeRaw_w (s : State) : (decodeRaw s).w = s.w := by dsimp only [decodeRaw]
@[simp] theorem decodeRaw_pay (s : State) : (decodeRaw s).pay = s.pay := by dsimp only [decodeRaw]
@[simp] theorem decodeRaw_payLen (s : State) : (decodeRaw s).payLen = s.payLen := by dsimp only [decodeRaw]
@[simp] theorem decodeRaw_unp (s : State) : (decodeRaw s).unp = s.unp := by dsimp only [decodeRaw]
@[simp] theorem decodeRaw_prev (s : State) : (decodeRaw s).prev = s.prev := by dsimp only [decodeRaw]
@[simp] theorem decodeRaw_sbuf (s : State) :
    (decodeRaw s).sbuf =
      rawSamples (rawBytes s.bitsPerSample) Config.cap s.pay := by dsimp only [decodeRaw]
@[simp] theorem decodeRaw_ch (s : State) : (decodeRaw s).ch = s.ch := by dsimp only [decodeRaw]
@[simp] theorem decodeRaw_overflow (s : State) : (decodeRaw s).overflow = s.overflow := by dsimp only [decodeRaw]
@[simp] theorem decodeRaw_fIdx (s : State) : (decodeRaw s).fIdx = s.fIdx := by dsimp only [decodeRaw]
@[simp] theorem decodeRaw_ovf (s : State) : (decodeRaw s).ovf = s.ovf := by dsimp only [decodeRaw]
@[simp] theorem decodeRaw_exc (s : State) : (decodeRaw s).exc = s.exc := by dsimp only [decodeRaw]
@[simp] theorem decodeRaw_errCode (s : State) : (decodeRaw s).errCode = s.errCode := by dsimp only [decodeRaw]
@[simp] theorem decodeRaw_errGroup (s : State) : (decodeRaw s).errGroup = s.errGroup := by dsimp only [decodeRaw]
@[simp] theorem decodeRaw_errChan (s : State) : (decodeRaw s).errChan = s.errChan := by dsimp only [decodeRaw]
@[simp] theorem decodeRaw_errAddr (s : State) : (decodeRaw s).errAddr = s.errAddr := by dsimp only [decodeRaw]
@[simp] theorem decodeRaw_out (s : State) : (decodeRaw s).out = s.out := by dsimp only [decodeRaw]
@[simp] theorem decodeRaw_taken (s : State) : (decodeRaw s).taken = s.taken := by dsimp only [decodeRaw]
@[simp] theorem decodeRaw_lastTaken (s : State) : (decodeRaw s).lastTaken = s.lastTaken := by dsimp only [decodeRaw]
@[simp] theorem decodeRaw_fresh (s : State) : (decodeRaw s).fresh = s.fresh := by dsimp only [decodeRaw]

/-! `decodeDelta` -/

@[simp] theorem decodeDelta_par (s : State) : (decodeDelta s).par = s.par := by dsimp only [decodeDelta]
@[simp] theorem decodeDelta_src (s : State) : (decodeDelta s).src = s.src := by dsimp only [decodeDelta]
@[simp] theorem decodeDelta_host (s : State) : (decodeDelta s).host = s.host := by dsimp only [decodeDelta]
@[simp] theorem decodeDelta_rdata (s : State) : (decodeDelta s).rdata = s.rdata := by dsimp only [decodeDelta]
@[simp] theorem decodeDelta_channels (s : State) : (decodeDelta s).channels = s.channels := by
  dsimp only [decodeDelta]
@[simp] theorem decodeDelta_bitsPerSample (s : State) : (decodeDelta s).bitsPerSample = s.bitsPerSample := by
  dsimp only [decodeDelta]
@[simp] theorem decodeDelta_numSamples (s : State) : (decodeDelta s).numSamples = s.numSamples := by
  dsimp only [decodeDelta]
@[simp] theorem decodeDelta_numGroups (s : State) : (decodeDelta s).numGroups = s.numGroups := by
  dsimp only [decodeDelta]
@[simp] theorem decodeDelta_dataOffset (s : State) : (decodeDelta s).dataOffset = s.dataOffset := by
  dsimp only [decodeDelta]
@[simp] theorem decodeDelta_offtab (s : State) : (decodeDelta s).offtab = s.offtab := by dsimp only [decodeDelta]
@[simp] theorem decodeDelta_st (s : State) : (decodeDelta s).st = s.st := by dsimp only [decodeDelta]
@[simp] theorem decodeDelta_phase (s : State) : (decodeDelta s).phase = s.phase := by dsimp only [decodeDelta]
@[simp] theorem decodeDelta_gIdx (s : State) : (decodeDelta s).gIdx = s.gIdx := by dsimp only [decodeDelta]
@[simp] theorem decodeDelta_cIdx (s : State) : (decodeDelta s).cIdx = s.cIdx := by dsimp only [decodeDelta]
@[simp] theorem decodeDelta_cur (s : State) : (decodeDelta s).cur = s.cur := by dsimp only [decodeDelta]
@[simp] theorem decodeDelta_base (s : State) : (decodeDelta s).base = s.base := by dsimp only [decodeDelta]
@[simp] theorem decodeDelta_bits (s : State) : (decodeDelta s).bits = s.bits := by dsimp only [decodeDelta]
@[simp] theorem decodeDelta_flags (s : State) : (decodeDelta s).flags = s.flags := by dsimp only [decodeDelta]
@[simp] theorem decodeDelta_mode (s : State) : (decodeDelta s).mode = s.mode := by dsimp only [decodeDelta]
@[simp] theorem decodeDelta_w (s : State) : (decodeDelta s).w = s.w := by dsimp only [decodeDelta]
@[simp] theorem decodeDelta_pay (s : State) : (decodeDelta s).pay = s.pay := by dsimp only [decodeDelta]
@[simp] theorem decodeDelta_payLen (s : State) : (decodeDelta s).payLen = s.payLen := by dsimp only [decodeDelta]
@[simp] theorem decodeDelta_unp (s : State) : (decodeDelta s).unp = (unpack s.w s.pay).1 := by
  dsimp only [decodeDelta]
@[simp] theorem decodeDelta_prev (s : State) :
    (decodeDelta s).prev =
      (s.base :: deltaFrom s.base ((unpack s.w s.pay).2.take (Config.cap - 1))).getLastD s.base := by
  dsimp only [decodeDelta]
@[simp] theorem decodeDelta_sbuf (s : State) :
    (decodeDelta s).sbuf =
      s.base :: deltaFrom s.base ((unpack s.w s.pay).2.take (Config.cap - 1)) := by dsimp only [decodeDelta]
@[simp] theorem decodeDelta_ch (s : State) : (decodeDelta s).ch = s.ch := by dsimp only [decodeDelta]
@[simp] theorem decodeDelta_overflow (s : State) : (decodeDelta s).overflow = s.overflow := by
  dsimp only [decodeDelta]
@[simp] theorem decodeDelta_fIdx (s : State) : (decodeDelta s).fIdx = s.fIdx := by dsimp only [decodeDelta]
@[simp] theorem decodeDelta_ovf (s : State) :
    (decodeDelta s).ovf =
      (s.ovf || deltaOverflows s.base ((unpack s.w s.pay).2.take (Config.cap - 1))) := by dsimp only [decodeDelta]
@[simp] theorem decodeDelta_exc (s : State) : (decodeDelta s).exc = s.exc := by dsimp only [decodeDelta]
@[simp] theorem decodeDelta_errCode (s : State) : (decodeDelta s).errCode = s.errCode := by dsimp only [decodeDelta]
@[simp] theorem decodeDelta_errGroup (s : State) : (decodeDelta s).errGroup = s.errGroup := by
  dsimp only [decodeDelta]
@[simp] theorem decodeDelta_errChan (s : State) : (decodeDelta s).errChan = s.errChan := by dsimp only [decodeDelta]
@[simp] theorem decodeDelta_errAddr (s : State) : (decodeDelta s).errAddr = s.errAddr := by dsimp only [decodeDelta]
@[simp] theorem decodeDelta_out (s : State) : (decodeDelta s).out = s.out := by dsimp only [decodeDelta]
@[simp] theorem decodeDelta_taken (s : State) : (decodeDelta s).taken = s.taken := by dsimp only [decodeDelta]
@[simp] theorem decodeDelta_lastTaken (s : State) : (decodeDelta s).lastTaken = s.lastTaken := by
  dsimp only [decodeDelta]
@[simp] theorem decodeDelta_fresh (s : State) : (decodeDelta s).fresh = s.fresh := by dsimp only [decodeDelta]

/-! `decodeTrunc` -/

@[simp] theorem decodeTrunc_par (s : State) : (decodeTrunc s).par = s.par := by dsimp only [decodeTrunc]
@[simp] theorem decodeTrunc_src (s : State) : (decodeTrunc s).src = s.src := by dsimp only [decodeTrunc]
@[simp] theorem decodeTrunc_host (s : State) : (decodeTrunc s).host = s.host := by dsimp only [decodeTrunc]
@[simp] theorem decodeTrunc_rdata (s : State) : (decodeTrunc s).rdata = s.rdata := by dsimp only [decodeTrunc]
@[simp] theorem decodeTrunc_channels (s : State) : (decodeTrunc s).channels = s.channels := by
  dsimp only [decodeTrunc]
@[simp] theorem decodeTrunc_bitsPerSample (s : State) : (decodeTrunc s).bitsPerSample = s.bitsPerSample := by
  dsimp only [decodeTrunc]
@[simp] theorem decodeTrunc_numSamples (s : State) : (decodeTrunc s).numSamples = s.numSamples := by
  dsimp only [decodeTrunc]
@[simp] theorem decodeTrunc_numGroups (s : State) : (decodeTrunc s).numGroups = s.numGroups := by
  dsimp only [decodeTrunc]
@[simp] theorem decodeTrunc_dataOffset (s : State) : (decodeTrunc s).dataOffset = s.dataOffset := by
  dsimp only [decodeTrunc]
@[simp] theorem decodeTrunc_offtab (s : State) : (decodeTrunc s).offtab = s.offtab := by dsimp only [decodeTrunc]
@[simp] theorem decodeTrunc_st (s : State) : (decodeTrunc s).st = s.st := by dsimp only [decodeTrunc]
@[simp] theorem decodeTrunc_phase (s : State) : (decodeTrunc s).phase = s.phase := by dsimp only [decodeTrunc]
@[simp] theorem decodeTrunc_gIdx (s : State) : (decodeTrunc s).gIdx = s.gIdx := by dsimp only [decodeTrunc]
@[simp] theorem decodeTrunc_cIdx (s : State) : (decodeTrunc s).cIdx = s.cIdx := by dsimp only [decodeTrunc]
@[simp] theorem decodeTrunc_cur (s : State) : (decodeTrunc s).cur = s.cur := by dsimp only [decodeTrunc]
@[simp] theorem decodeTrunc_base (s : State) : (decodeTrunc s).base = s.base := by dsimp only [decodeTrunc]
@[simp] theorem decodeTrunc_bits (s : State) : (decodeTrunc s).bits = s.bits := by dsimp only [decodeTrunc]
@[simp] theorem decodeTrunc_flags (s : State) : (decodeTrunc s).flags = s.flags := by dsimp only [decodeTrunc]
@[simp] theorem decodeTrunc_mode (s : State) : (decodeTrunc s).mode = s.mode := by dsimp only [decodeTrunc]
@[simp] theorem decodeTrunc_w (s : State) : (decodeTrunc s).w = s.w := by dsimp only [decodeTrunc]
@[simp] theorem decodeTrunc_pay (s : State) : (decodeTrunc s).pay = s.pay := by dsimp only [decodeTrunc]
@[simp] theorem decodeTrunc_payLen (s : State) : (decodeTrunc s).payLen = s.payLen := by dsimp only [decodeTrunc]
@[simp] theorem decodeTrunc_unp (s : State) : (decodeTrunc s).unp = (unpack s.w s.pay).1 := by
  dsimp only [decodeTrunc]
@[simp] theorem decodeTrunc_prev (s : State) : (decodeTrunc s).prev = s.prev := by dsimp only [decodeTrunc]
@[simp] theorem decodeTrunc_sbuf (s : State) : (decodeTrunc s).sbuf = (unpack s.w s.pay).2 := by
  dsimp only [decodeTrunc]
@[simp] theorem decodeTrunc_ch (s : State) : (decodeTrunc s).ch = s.ch := by dsimp only [decodeTrunc]
@[simp] theorem decodeTrunc_overflow (s : State) : (decodeTrunc s).overflow = s.overflow := by
  dsimp only [decodeTrunc]
@[simp] theorem decodeTrunc_fIdx (s : State) : (decodeTrunc s).fIdx = s.fIdx := by dsimp only [decodeTrunc]
@[simp] theorem decodeTrunc_ovf (s : State) : (decodeTrunc s).ovf = s.ovf := by dsimp only [decodeTrunc]
@[simp] theorem decodeTrunc_exc (s : State) : (decodeTrunc s).exc = s.exc := by dsimp only [decodeTrunc]
@[simp] theorem decodeTrunc_errCode (s : State) : (decodeTrunc s).errCode = s.errCode := by dsimp only [decodeTrunc]
@[simp] theorem decodeTrunc_errGroup (s : State) : (decodeTrunc s).errGroup = s.errGroup := by
  dsimp only [decodeTrunc]
@[simp] theorem decodeTrunc_errChan (s : State) : (decodeTrunc s).errChan = s.errChan := by dsimp only [decodeTrunc]
@[simp] theorem decodeTrunc_errAddr (s : State) : (decodeTrunc s).errAddr = s.errAddr := by dsimp only [decodeTrunc]
@[simp] theorem decodeTrunc_out (s : State) : (decodeTrunc s).out = s.out := by dsimp only [decodeTrunc]
@[simp] theorem decodeTrunc_taken (s : State) : (decodeTrunc s).taken = s.taken := by dsimp only [decodeTrunc]
@[simp] theorem decodeTrunc_lastTaken (s : State) : (decodeTrunc s).lastTaken = s.lastTaken := by
  dsimp only [decodeTrunc]
@[simp] theorem decodeTrunc_fresh (s : State) : (decodeTrunc s).fresh = s.fresh := by dsimp only [decodeTrunc]

/-! `softReset` -/

@[simp] theorem softReset_par (s : State) : (softReset s).par = s.par := by dsimp only [softReset]
@[simp] theorem softReset_src (s : State) : (softReset s).src = s.src := by dsimp only [softReset]
@[simp] theorem softReset_host (s : State) : (softReset s).host = s.host := by dsimp only [softReset]
@[simp] theorem softReset_rdata (s : State) : (softReset s).rdata = s.rdata := by dsimp only [softReset]
@[simp] theorem softReset_channels (s : State) : (softReset s).channels = s.channels := by dsimp only [softReset]
@[simp] theorem softReset_bitsPerSample (s : State) : (softReset s).bitsPerSample = s.bitsPerSample := by
  dsimp only [softReset]
@[simp] theorem softReset_numSamples (s : State) : (softReset s).numSamples = s.numSamples := by
  dsimp only [softReset]
@[simp] theorem softReset_numGroups (s : State) : (softReset s).numGroups = s.numGroups := by dsimp only [softReset]
@[simp] theorem softReset_dataOffset (s : State) : (softReset s).dataOffset = s.dataOffset := by
  dsimp only [softReset]
@[simp] theorem softReset_offtab (s : State) : (softReset s).offtab = s.offtab := by dsimp only [softReset]
@[simp] theorem softReset_st (s : State) : (softReset s).st = .idle := by dsimp only [softReset]
@[simp] theorem softReset_phase (s : State) : (softReset s).phase = .seek := by dsimp only [softReset]
@[simp] theorem softReset_gIdx (s : State) : (softReset s).gIdx = 0 := by dsimp only [softReset]
@[simp] theorem softReset_cIdx (s : State) : (softReset s).cIdx = 0 := by dsimp only [softReset]
@[simp] theorem softReset_cur (s : State) : (softReset s).cur = 0 := by dsimp only [softReset]
@[simp] theorem softReset_base (s : State) : (softReset s).base = 0 := by dsimp only [softReset]
@[simp] theorem softReset_bits (s : State) : (softReset s).bits = 0 := by dsimp only [softReset]
@[simp] theorem softReset_flags (s : State) : (softReset s).flags = 0 := by dsimp only [softReset]
@[simp] theorem softReset_mode (s : State) : (softReset s).mode = .raw := by dsimp only [softReset]
@[simp] theorem softReset_w (s : State) : (softReset s).w = 0 := by dsimp only [softReset]
@[simp] theorem softReset_pay (s : State) : (softReset s).pay = freePay s.fresh := by dsimp only [softReset]
@[simp] theorem softReset_payLen (s : State) : (softReset s).payLen = 0 := by dsimp only [softReset]
@[simp] theorem softReset_unp (s : State) : (softReset s).unp = ⟨0, 0, 0, 0⟩ := by dsimp only [softReset]
@[simp] theorem softReset_prev (s : State) : (softReset s).prev = 0 := by dsimp only [softReset]
@[simp] theorem softReset_sbuf (s : State) : (softReset s).sbuf = freeSbuf s.fresh := by dsimp only [softReset]
@[simp] theorem softReset_ch (s : State) : (softReset s).ch = [] := by dsimp only [softReset]
@[simp] theorem softReset_overflow (s : State) : (softReset s).overflow = 0 := by dsimp only [softReset]
@[simp] theorem softReset_fIdx (s : State) : (softReset s).fIdx = 0 := by dsimp only [softReset]
@[simp] theorem softReset_ovf (s : State) : (softReset s).ovf = false := by dsimp only [softReset]
@[simp] theorem softReset_exc (s : State) : (softReset s).exc = false := by dsimp only [softReset]
@[simp] theorem softReset_errCode (s : State) : (softReset s).errCode = 0 := by dsimp only [softReset]
@[simp] theorem softReset_errGroup (s : State) : (softReset s).errGroup = 0 := by dsimp only [softReset]
@[simp] theorem softReset_errChan (s : State) : (softReset s).errChan = 0 := by dsimp only [softReset]
@[simp] theorem softReset_errAddr (s : State) : (softReset s).errAddr = 0 := by dsimp only [softReset]
@[simp] theorem softReset_out (s : State) : (softReset s).out = s.out := by dsimp only [softReset]
@[simp] theorem softReset_taken (s : State) : (softReset s).taken = s.taken := by dsimp only [softReset]
@[simp] theorem softReset_lastTaken (s : State) : (softReset s).lastTaken = s.lastTaken := by dsimp only [softReset]
@[simp] theorem softReset_fresh (s : State) : (softReset s).fresh = s.fresh + 1 := by dsimp only [softReset]

end Sys2Proof.Machine
end

