-- ==== Sys2Proof/Laws/Block.lean ====
section
/-! SUPPORT. What the shared operations of a block can do: lengths of what is decoded, the payload fetch, the end of a
block, and the inversion of the five meanings. -/

namespace Sys2Proof.Machine

/-! Lengths. -/

@[simp] theorem rawSamples_length (b n : Nat) (p : List Byte) : (rawSamples b n p).length = n := by
  induction n generalizing p with
  | zero => rfl
  | succ n ih => simp [rawSamples, ih]

@[simp] theorem deltaFrom_length (p : Sample) (vs : List Sample) : (deltaFrom p vs).length = vs.length := by
  induction vs generalizing p with
  | nil => rfl
  | cons v vs ih => simp [deltaFrom, ih]

@[simp] theorem unpackLoop_length (w n : Nat) (bs : List Byte) (u : Unpacker) : (unpackLoop w n bs u).2.length = n := by
  induction n generalizing bs u with
  | zero => rfl
  | succ n ih => simp [unpackLoop, ih]

@[simp] theorem unpack_length (w : Nat) (p : List Byte) : (unpack w p).2.length = Config.cap := unpackLoop_length _ _ _ _

@[simp] theorem freePay_length (n : Nat) : (freePay n).length = Config.payBytes := by simp [freePay]

@[simp] theorem freeSbuf_length (n : Nat) : (freeSbuf n).length = Config.cap := by simp [freeSbuf]

/-! The end of a block. -/

/-- `advanceBlock` writes C_IDX, G_IDX and PHASE only. -/
theorem advanceBlock_eq (s : State) :
    advanceBlock s =
      { s with
        cIdx := s.cIdx + 1
        gIdx := if s.cIdx + 1 < s.channels.toNat then s.gIdx else s.gIdx + 1
        phase :=
          if s.cIdx + 1 < s.channels.toNat then s.phase
          else if s.gIdx + 1 < s.numGroups.toNat then .seek else .check } := by
  unfold advanceBlock
  split <;> rfl

@[simp] theorem advanceBlock_par (s : State) : (advanceBlock s).par = s.par := by simp only [advanceBlock_eq]
@[simp] theorem advanceBlock_src (s : State) : (advanceBlock s).src = s.src := by simp only [advanceBlock_eq]
@[simp] theorem advanceBlock_host (s : State) : (advanceBlock s).host = s.host := by simp only [advanceBlock_eq]
@[simp] theorem advanceBlock_rdata (s : State) : (advanceBlock s).rdata = s.rdata := by simp only [advanceBlock_eq]
@[simp] theorem advanceBlock_channels (s : State) : (advanceBlock s).channels = s.channels := by
  simp only [advanceBlock_eq]
@[simp] theorem advanceBlock_bitsPerSample (s : State) : (advanceBlock s).bitsPerSample = s.bitsPerSample := by
  simp only [advanceBlock_eq]
@[simp] theorem advanceBlock_numSamples (s : State) : (advanceBlock s).numSamples = s.numSamples := by
  simp only [advanceBlock_eq]
@[simp] theorem advanceBlock_numGroups (s : State) : (advanceBlock s).numGroups = s.numGroups := by
  simp only [advanceBlock_eq]
@[simp] theorem advanceBlock_dataOffset (s : State) : (advanceBlock s).dataOffset = s.dataOffset := by
  simp only [advanceBlock_eq]
@[simp] theorem advanceBlock_offtab (s : State) : (advanceBlock s).offtab = s.offtab := by simp only [advanceBlock_eq]
@[simp] theorem advanceBlock_st (s : State) : (advanceBlock s).st = s.st := by simp only [advanceBlock_eq]
@[simp] theorem advanceBlock_cur (s : State) : (advanceBlock s).cur = s.cur := by simp only [advanceBlock_eq]
@[simp] theorem advanceBlock_base (s : State) : (advanceBlock s).base = s.base := by simp only [advanceBlock_eq]
@[simp] theorem advanceBlock_bits (s : State) : (advanceBlock s).bits = s.bits := by simp only [advanceBlock_eq]
@[simp] theorem advanceBlock_flags (s : State) : (advanceBlock s).flags = s.flags := by simp only [advanceBlock_eq]
@[simp] theorem advanceBlock_mode (s : State) : (advanceBlock s).mode = s.mode := by simp only [advanceBlock_eq]
@[simp] theorem advanceBlock_w (s : State) : (advanceBlock s).w = s.w := by simp only [advanceBlock_eq]
@[simp] theorem advanceBlock_pay (s : State) : (advanceBlock s).pay = s.pay := by simp only [advanceBlock_eq]
@[simp] theorem advanceBlock_payLen (s : State) : (advanceBlock s).payLen = s.payLen := by simp only [advanceBlock_eq]
@[simp] theorem advanceBlock_unp (s : State) : (advanceBlock s).unp = s.unp := by simp only [advanceBlock_eq]
@[simp] theorem advanceBlock_prev (s : State) : (advanceBlock s).prev = s.prev := by simp only [advanceBlock_eq]
@[simp] theorem advanceBlock_sbuf (s : State) : (advanceBlock s).sbuf = s.sbuf := by simp only [advanceBlock_eq]
@[simp] theorem advanceBlock_ch (s : State) : (advanceBlock s).ch = s.ch := by simp only [advanceBlock_eq]
@[simp] theorem advanceBlock_overflow (s : State) : (advanceBlock s).overflow = s.overflow := by
  simp only [advanceBlock_eq]
@[simp] theorem advanceBlock_fIdx (s : State) : (advanceBlock s).fIdx = s.fIdx := by simp only [advanceBlock_eq]
@[simp] theorem advanceBlock_ovf (s : State) : (advanceBlock s).ovf = s.ovf := by simp only [advanceBlock_eq]
@[simp] theorem advanceBlock_exc (s : State) : (advanceBlock s).exc = s.exc := by simp only [advanceBlock_eq]
@[simp] theorem advanceBlock_errCode (s : State) : (advanceBlock s).errCode = s.errCode := by
  simp only [advanceBlock_eq]
@[simp] theorem advanceBlock_errGroup (s : State) : (advanceBlock s).errGroup = s.errGroup := by
  simp only [advanceBlock_eq]
@[simp] theorem advanceBlock_errChan (s : State) : (advanceBlock s).errChan = s.errChan := by
  simp only [advanceBlock_eq]
@[simp] theorem advanceBlock_errAddr (s : State) : (advanceBlock s).errAddr = s.errAddr := by
  simp only [advanceBlock_eq]
@[simp] theorem advanceBlock_out (s : State) : (advanceBlock s).out = s.out := by simp only [advanceBlock_eq]
@[simp] theorem advanceBlock_taken (s : State) : (advanceBlock s).taken = s.taken := by simp only [advanceBlock_eq]
@[simp] theorem advanceBlock_lastTaken (s : State) : (advanceBlock s).lastTaken = s.lastTaken := by
  simp only [advanceBlock_eq]
@[simp] theorem advanceBlock_fresh (s : State) : (advanceBlock s).fresh = s.fresh := by simp only [advanceBlock_eq]

@[simp] theorem advanceBlock_cIdx (s : State) : (advanceBlock s).cIdx = s.cIdx + 1 := by simp only [advanceBlock_eq]

theorem advanceBlock_gIdx (s : State) :
    (advanceBlock s).gIdx = if s.cIdx + 1 < s.channels.toNat then s.gIdx else s.gIdx + 1 := by
  simp only [advanceBlock_eq]

theorem advanceBlock_phase (s : State) :
    (advanceBlock s).phase =
      if s.cIdx + 1 < s.channels.toNat then s.phase
      else if s.gIdx + 1 < s.numGroups.toNat then .seek else .check := by
  simp only [advanceBlock_eq]

/-! The payload fetch. -/

/-- PAY holds the bytes, what lies past them staying (log entry 30), and CUR passes them. -/
def loadPayload (bs : List Byte) (s : State) : State :=
  { s with pay := bs ++ s.pay.drop bs.length, cur := s.cur + BitVec.ofNat 64 s.payLen }

@[simp] theorem loadPayload_par (bs : List Byte) (s : State) : (loadPayload bs s).par = s.par := rfl
@[simp] theorem loadPayload_src (bs : List Byte) (s : State) : (loadPayload bs s).src = s.src := rfl
@[simp] theorem loadPayload_host (bs : List Byte) (s : State) : (loadPayload bs s).host = s.host := rfl
@[simp] theorem loadPayload_rdata (bs : List Byte) (s : State) : (loadPayload bs s).rdata = s.rdata := rfl
@[simp] theorem loadPayload_channels (bs : List Byte) (s : State) : (loadPayload bs s).channels = s.channels := rfl
@[simp] theorem loadPayload_bitsPerSample (bs : List Byte) (s : State) :
    (loadPayload bs s).bitsPerSample = s.bitsPerSample := rfl
@[simp] theorem loadPayload_numSamples (bs : List Byte) (s : State) :
    (loadPayload bs s).numSamples = s.numSamples := rfl
@[simp] theorem loadPayload_numGroups (bs : List Byte) (s : State) : (loadPayload bs s).numGroups = s.numGroups := rfl
@[simp] theorem loadPayload_dataOffset (bs : List Byte) (s : State) :
    (loadPayload bs s).dataOffset = s.dataOffset := rfl
@[simp] theorem loadPayload_offtab (bs : List Byte) (s : State) : (loadPayload bs s).offtab = s.offtab := rfl
@[simp] theorem loadPayload_st (bs : List Byte) (s : State) : (loadPayload bs s).st = s.st := rfl
@[simp] theorem loadPayload_phase (bs : List Byte) (s : State) : (loadPayload bs s).phase = s.phase := rfl
@[simp] theorem loadPayload_gIdx (bs : List Byte) (s : State) : (loadPayload bs s).gIdx = s.gIdx := rfl
@[simp] theorem loadPayload_cIdx (bs : List Byte) (s : State) : (loadPayload bs s).cIdx = s.cIdx := rfl
@[simp] theorem loadPayload_cur (bs : List Byte) (s : State) :
    (loadPayload bs s).cur = s.cur + BitVec.ofNat 64 s.payLen := rfl
@[simp] theorem loadPayload_base (bs : List Byte) (s : State) : (loadPayload bs s).base = s.base := rfl
@[simp] theorem loadPayload_bits (bs : List Byte) (s : State) : (loadPayload bs s).bits = s.bits := rfl
@[simp] theorem loadPayload_flags (bs : List Byte) (s : State) : (loadPayload bs s).flags = s.flags := rfl
@[simp] theorem loadPayload_mode (bs : List Byte) (s : State) : (loadPayload bs s).mode = s.mode := rfl
@[simp] theorem loadPayload_w (bs : List Byte) (s : State) : (loadPayload bs s).w = s.w := rfl
@[simp] theorem loadPayload_pay (bs : List Byte) (s : State) :
    (loadPayload bs s).pay = bs ++ s.pay.drop bs.length := rfl
@[simp] theorem loadPayload_payLen (bs : List Byte) (s : State) : (loadPayload bs s).payLen = s.payLen := rfl
@[simp] theorem loadPayload_unp (bs : List Byte) (s : State) : (loadPayload bs s).unp = s.unp := rfl
@[simp] theorem loadPayload_prev (bs : List Byte) (s : State) : (loadPayload bs s).prev = s.prev := rfl
@[simp] theorem loadPayload_sbuf (bs : List Byte) (s : State) : (loadPayload bs s).sbuf = s.sbuf := rfl
@[simp] theorem loadPayload_ch (bs : List Byte) (s : State) : (loadPayload bs s).ch = s.ch := rfl
@[simp] theorem loadPayload_overflow (bs : List Byte) (s : State) : (loadPayload bs s).overflow = s.overflow := rfl
@[simp] theorem loadPayload_fIdx (bs : List Byte) (s : State) : (loadPayload bs s).fIdx = s.fIdx := rfl
@[simp] theorem loadPayload_ovf (bs : List Byte) (s : State) : (loadPayload bs s).ovf = s.ovf := rfl
@[simp] theorem loadPayload_exc (bs : List Byte) (s : State) : (loadPayload bs s).exc = s.exc := rfl
@[simp] theorem loadPayload_errCode (bs : List Byte) (s : State) : (loadPayload bs s).errCode = s.errCode := rfl
@[simp] theorem loadPayload_errGroup (bs : List Byte) (s : State) : (loadPayload bs s).errGroup = s.errGroup := rfl
@[simp] theorem loadPayload_errChan (bs : List Byte) (s : State) : (loadPayload bs s).errChan = s.errChan := rfl
@[simp] theorem loadPayload_errAddr (bs : List Byte) (s : State) : (loadPayload bs s).errAddr = s.errAddr := rfl
@[simp] theorem loadPayload_out (bs : List Byte) (s : State) : (loadPayload bs s).out = s.out := rfl
@[simp] theorem loadPayload_taken (bs : List Byte) (s : State) : (loadPayload bs s).taken = s.taken := rfl
@[simp] theorem loadPayload_lastTaken (bs : List Byte) (s : State) : (loadPayload bs s).lastTaken = s.lastTaken := rfl
@[simp] theorem loadPayload_fresh (bs : List Byte) (s : State) : (loadPayload bs s).fresh = s.fresh := rfl

theorem fetchPayload_error {s : State} {e : Cause × Nat} :
    fetchPayload s = .error e ↔ memRead s.src s.cur.toNat s.payLen = .error e := by
  unfold fetchPayload
  split <;> simp_all

theorem fetchPayload_ok {s t : State} :
    fetchPayload s = .ok t ↔ ∃ bs, memRead s.src s.cur.toNat s.payLen = .ok bs ∧ t = loadPayload bs s := by
  unfold fetchPayload
  split
  · simp_all
  · next bs h => simp [h, loadPayload, eq_comm]

/-- All a block can come to from its payload fetch on. -/
theorem runBlock_cases (f : State → State) (s : State) :
    (∃ e, memRead s.src s.cur.toNat s.payLen = .error e ∧ runBlock f s = .next (raise e.1 e.2 s)) ∨
    (∃ bs, memRead s.src s.cur.toNat s.payLen = .ok bs ∧
      runBlock f s = .next (advanceBlock (appendBlock (f (loadPayload bs s))))) := by
  unfold runBlock fetchPayload
  rcases h : memRead s.src s.cur.toNat s.payLen with e | bs
  · exact .inl ⟨e, rfl, rfl⟩
  · exact .inr ⟨bs, rfl, rfl⟩

/-! The five meanings. -/

/-- Where a stream instruction stands when its payload fetch begins. -/
def streamStart : Instr → State → State
  | .raw base flags _, s => setMode .raw 0 (enterBlock base 0 flags s)
  | .delta base w flags _, s => setMode .delta w (enterBlock base (BitVec.ofNat 16 w) flags s)
  | .trunc base w flags _, s => setMode .trunc w (enterBlock base (BitVec.ofInt 16 (-(w : Int))) flags s)
  | .start _, s => s
  | .reset _ _, s => s

/-- How a stream instruction fills S. -/
def streamDecode : Instr → State → State
  | .raw _ _ _ => decodeRaw
  | .delta _ _ _ _ => decodeDelta
  | .trunc _ _ _ _ => decodeTrunc
  | .start _ => id
  | .reset _ _ => id

@[simp] theorem streamStart_par (i : Instr) (s : State) : (streamStart i s).par = s.par := by
  cases i <;> simp [streamStart]
@[simp] theorem streamStart_src (i : Instr) (s : State) : (streamStart i s).src = s.src := by
  cases i <;> simp [streamStart]
@[simp] theorem streamStart_host (i : Instr) (s : State) : (streamStart i s).host = s.host := by
  cases i <;> simp [streamStart]
@[simp] theorem streamStart_rdata (i : Instr) (s : State) : (streamStart i s).rdata = s.rdata := by
  cases i <;> simp [streamStart]
@[simp] theorem streamStart_channels (i : Instr) (s : State) : (streamStart i s).channels = s.channels := by
  cases i <;> simp [streamStart]
@[simp] theorem streamStart_bitsPerSample (i : Instr) (s : State) :
    (streamStart i s).bitsPerSample = s.bitsPerSample := by
  cases i <;> simp [streamStart]
@[simp] theorem streamStart_numSamples (i : Instr) (s : State) : (streamStart i s).numSamples = s.numSamples := by
  cases i <;> simp [streamStart]
@[simp] theorem streamStart_numGroups (i : Instr) (s : State) : (streamStart i s).numGroups = s.numGroups := by
  cases i <;> simp [streamStart]
@[simp] theorem streamStart_dataOffset (i : Instr) (s : State) : (streamStart i s).dataOffset = s.dataOffset := by
  cases i <;> simp [streamStart]
@[simp] theorem streamStart_offtab (i : Instr) (s : State) : (streamStart i s).offtab = s.offtab := by
  cases i <;> simp [streamStart]
@[simp] theorem streamStart_st (i : Instr) (s : State) : (streamStart i s).st = s.st := by
  cases i <;> simp [streamStart]
@[simp] theorem streamStart_phase (i : Instr) (s : State) : (streamStart i s).phase = s.phase := by
  cases i <;> simp [streamStart]
@[simp] theorem streamStart_gIdx (i : Instr) (s : State) : (streamStart i s).gIdx = s.gIdx := by
  cases i <;> simp [streamStart]
@[simp] theorem streamStart_cIdx (i : Instr) (s : State) : (streamStart i s).cIdx = s.cIdx := by
  cases i <;> simp [streamStart]
@[simp] theorem streamStart_pay (i : Instr) (s : State) : (streamStart i s).pay = s.pay := by
  cases i <;> simp [streamStart]
@[simp] theorem streamStart_unp (i : Instr) (s : State) : (streamStart i s).unp = s.unp := by
  cases i <;> simp [streamStart]
@[simp] theorem streamStart_prev (i : Instr) (s : State) : (streamStart i s).prev = s.prev := by
  cases i <;> simp [streamStart]
@[simp] theorem streamStart_sbuf (i : Instr) (s : State) : (streamStart i s).sbuf = s.sbuf := by
  cases i <;> simp [streamStart]
@[simp] theorem streamStart_ch (i : Instr) (s : State) : (streamStart i s).ch = s.ch := by
  cases i <;> simp [streamStart]
@[simp] theorem streamStart_overflow (i : Instr) (s : State) : (streamStart i s).overflow = s.overflow := by
  cases i <;> simp [streamStart]
@[simp] theorem streamStart_fIdx (i : Instr) (s : State) : (streamStart i s).fIdx = s.fIdx := by
  cases i <;> simp [streamStart]
@[simp] theorem streamStart_ovf (i : Instr) (s : State) : (streamStart i s).ovf = s.ovf := by
  cases i <;> simp [streamStart]
@[simp] theorem streamStart_exc (i : Instr) (s : State) : (streamStart i s).exc = s.exc := by
  cases i <;> simp [streamStart]
@[simp] theorem streamStart_errCode (i : Instr) (s : State) : (streamStart i s).errCode = s.errCode := by
  cases i <;> simp [streamStart]
@[simp] theorem streamStart_errGroup (i : Instr) (s : State) : (streamStart i s).errGroup = s.errGroup := by
  cases i <;> simp [streamStart]
@[simp] theorem streamStart_errChan (i : Instr) (s : State) : (streamStart i s).errChan = s.errChan := by
  cases i <;> simp [streamStart]
@[simp] theorem streamStart_errAddr (i : Instr) (s : State) : (streamStart i s).errAddr = s.errAddr := by
  cases i <;> simp [streamStart]
@[simp] theorem streamStart_out (i : Instr) (s : State) : (streamStart i s).out = s.out := by
  cases i <;> simp [streamStart]
@[simp] theorem streamStart_taken (i : Instr) (s : State) : (streamStart i s).taken = s.taken := by
  cases i <;> simp [streamStart]
@[simp] theorem streamStart_lastTaken (i : Instr) (s : State) : (streamStart i s).lastTaken = s.lastTaken := by
  cases i <;> simp [streamStart]
@[simp] theorem streamStart_fresh (i : Instr) (s : State) : (streamStart i s).fresh = s.fresh := by
  cases i <;> simp [streamStart]

@[simp] theorem streamDecode_par (i : Instr) (s : State) : (streamDecode i s).par = s.par := by
  cases i <;> simp [streamDecode]
@[simp] theorem streamDecode_src (i : Instr) (s : State) : (streamDecode i s).src = s.src := by
  cases i <;> simp [streamDecode]
@[simp] theorem streamDecode_host (i : Instr) (s : State) : (streamDecode i s).host = s.host := by
  cases i <;> simp [streamDecode]
@[simp] theorem streamDecode_rdata (i : Instr) (s : State) : (streamDecode i s).rdata = s.rdata := by
  cases i <;> simp [streamDecode]
@[simp] theorem streamDecode_channels (i : Instr) (s : State) : (streamDecode i s).channels = s.channels := by
  cases i <;> simp [streamDecode]
@[simp] theorem streamDecode_bitsPerSample (i : Instr) (s : State) :
    (streamDecode i s).bitsPerSample = s.bitsPerSample := by
  cases i <;> simp [streamDecode]
@[simp] theorem streamDecode_numSamples (i : Instr) (s : State) : (streamDecode i s).numSamples = s.numSamples := by
  cases i <;> simp [streamDecode]
@[simp] theorem streamDecode_numGroups (i : Instr) (s : State) : (streamDecode i s).numGroups = s.numGroups := by
  cases i <;> simp [streamDecode]
@[simp] theorem streamDecode_dataOffset (i : Instr) (s : State) : (streamDecode i s).dataOffset = s.dataOffset := by
  cases i <;> simp [streamDecode]
@[simp] theorem streamDecode_offtab (i : Instr) (s : State) : (streamDecode i s).offtab = s.offtab := by
  cases i <;> simp [streamDecode]
@[simp] theorem streamDecode_st (i : Instr) (s : State) : (streamDecode i s).st = s.st := by
  cases i <;> simp [streamDecode]
@[simp] theorem streamDecode_phase (i : Instr) (s : State) : (streamDecode i s).phase = s.phase := by
  cases i <;> simp [streamDecode]
@[simp] theorem streamDecode_gIdx (i : Instr) (s : State) : (streamDecode i s).gIdx = s.gIdx := by
  cases i <;> simp [streamDecode]
@[simp] theorem streamDecode_cIdx (i : Instr) (s : State) : (streamDecode i s).cIdx = s.cIdx := by
  cases i <;> simp [streamDecode]
@[simp] theorem streamDecode_cur (i : Instr) (s : State) : (streamDecode i s).cur = s.cur := by
  cases i <;> simp [streamDecode]
@[simp] theorem streamDecode_base (i : Instr) (s : State) : (streamDecode i s).base = s.base := by
  cases i <;> simp [streamDecode]
@[simp] theorem streamDecode_bits (i : Instr) (s : State) : (streamDecode i s).bits = s.bits := by
  cases i <;> simp [streamDecode]
@[simp] theorem streamDecode_flags (i : Instr) (s : State) : (streamDecode i s).flags = s.flags := by
  cases i <;> simp [streamDecode]
@[simp] theorem streamDecode_mode (i : Instr) (s : State) : (streamDecode i s).mode = s.mode := by
  cases i <;> simp [streamDecode]
@[simp] theorem streamDecode_w (i : Instr) (s : State) : (streamDecode i s).w = s.w := by
  cases i <;> simp [streamDecode]
@[simp] theorem streamDecode_pay (i : Instr) (s : State) : (streamDecode i s).pay = s.pay := by
  cases i <;> simp [streamDecode]
@[simp] theorem streamDecode_payLen (i : Instr) (s : State) : (streamDecode i s).payLen = s.payLen := by
  cases i <;> simp [streamDecode]
@[simp] theorem streamDecode_ch (i : Instr) (s : State) : (streamDecode i s).ch = s.ch := by
  cases i <;> simp [streamDecode]
@[simp] theorem streamDecode_overflow (i : Instr) (s : State) : (streamDecode i s).overflow = s.overflow := by
  cases i <;> simp [streamDecode]
@[simp] theorem streamDecode_fIdx (i : Instr) (s : State) : (streamDecode i s).fIdx = s.fIdx := by
  cases i <;> simp [streamDecode]
@[simp] theorem streamDecode_exc (i : Instr) (s : State) : (streamDecode i s).exc = s.exc := by
  cases i <;> simp [streamDecode]
@[simp] theorem streamDecode_errCode (i : Instr) (s : State) : (streamDecode i s).errCode = s.errCode := by
  cases i <;> simp [streamDecode]
@[simp] theorem streamDecode_errGroup (i : Instr) (s : State) : (streamDecode i s).errGroup = s.errGroup := by
  cases i <;> simp [streamDecode]
@[simp] theorem streamDecode_errChan (i : Instr) (s : State) : (streamDecode i s).errChan = s.errChan := by
  cases i <;> simp [streamDecode]
@[simp] theorem streamDecode_errAddr (i : Instr) (s : State) : (streamDecode i s).errAddr = s.errAddr := by
  cases i <;> simp [streamDecode]
@[simp] theorem streamDecode_out (i : Instr) (s : State) : (streamDecode i s).out = s.out := by
  cases i <;> simp [streamDecode]
@[simp] theorem streamDecode_taken (i : Instr) (s : State) : (streamDecode i s).taken = s.taken := by
  cases i <;> simp [streamDecode]
@[simp] theorem streamDecode_lastTaken (i : Instr) (s : State) : (streamDecode i s).lastTaken = s.lastTaken := by
  cases i <;> simp [streamDecode]
@[simp] theorem streamDecode_fresh (i : Instr) (s : State) : (streamDecode i s).fresh = s.fresh := by
  cases i <;> simp [streamDecode]

/-- Each decoder fills S with 512 samples (`41_block_decode.md` R135). -/
theorem streamDecode_full {i : Instr} (hi : isStreamInstr i = true) (s : State) :
    (streamDecode i s).sbuf.length = 512 := by
  cases i <;> simp_all [streamDecode, isStreamInstr, Config.cap]

theorem streamStart_cur {i : Instr} (hi : isStreamInstr i = true) (s : State) : (streamStart i s).cur = s.cur + 16 := by
  cases i <;> simp_all [streamStart, isStreamInstr]

/-- PAY_LEN is the length of `30_encoding.md` R76. -/
theorem streamStart_payLen {i : Instr} (hi : isStreamInstr i = true) (s : State) :
    (streamStart i s).payLen = payloadBytes i s := by
  cases i <;> simp_all [streamStart, isStreamInstr, payloadBytes, payloadLength, rawBytes, Config.cap]

/-- All a stream instruction can come to: the depth exception of RAW, an exception of its payload fetch, or its 512
samples appended. -/
theorem exec_stream_cases {i : Instr} (hi : isStreamInstr i = true) (s : State) :
    (∃ base flags r, i = .raw base flags r ∧ rawDepthLegal s.bitsPerSample = false ∧
      exec i s = .next (raise .unsupportedBitDepth s.cur.toNat (enterBlock base 0 flags s))) ∨
    (((∃ base flags r, i = .raw base flags r) → rawDepthLegal s.bitsPerSample = true) ∧
      ((∃ e, memRead s.src (streamStart i s).cur.toNat (streamStart i s).payLen = .error e ∧
          exec i s = .next (raise e.1 e.2 (streamStart i s))) ∨
        (∃ bs, memRead s.src (streamStart i s).cur.toNat (streamStart i s).payLen = .ok bs ∧
          exec i s =
            .next (advanceBlock (appendBlock (streamDecode i (loadPayload bs (streamStart i s)))))))) := by
  cases i with
  | raw base flags r =>
    rcases hd : rawDepthLegal s.bitsPerSample with _ | _
    · exact .inl ⟨base, flags, r, rfl, rfl, by simp [exec, execRaw, hd]⟩
    · refine .inr ⟨fun _ => rfl, ?_⟩
      simpa [exec, execRaw, hd, streamStart, streamDecode] using
        runBlock_cases decodeRaw (setMode .raw 0 (enterBlock base 0 flags s))
  | delta base w flags r =>
    refine .inr ⟨by simp, ?_⟩
    simpa [exec, execDelta, streamStart, streamDecode] using
      runBlock_cases decodeDelta (setMode .delta w (enterBlock base (BitVec.ofNat 16 w) flags s))
  | trunc base w flags r =>
    refine .inr ⟨by simp, ?_⟩
    simpa [exec, execTrunc, streamStart, streamDecode] using
      runBlock_cases decodeTrunc (setMode .trunc w (enterBlock base (BitVec.ofInt 16 (-(w : Int))) flags s))
  | start x => simp [isStreamInstr] at hi
  | reset b x => simp [isStreamInstr] at hi

theorem exec_start_cases (x : BitVec 30) (s : State) :
    (s.st ≠ .idle ∧ exec (.start x) s = .next s) ∨
    (s.st = .idle ∧ configBad s = true ∧ exec (.start x) s = .next (raise .configError 0 (startClears s))) ∨
    (s.st = .idle ∧ configBad s = false ∧ exec (.start x) s = .next (openSession (startClears s))) := by
  simp only [exec, execStart]
  rcases h : configBad s with _ | _ <;> by_cases hs : s.st = .idle <;> simp [hs]

theorem exec_reset_cases (b : Bool) (x : BitVec 30) (s : State) :
    (s.st = .busy ∧ exec (.reset b x) s = .next s) ∨ (s.st ≠ .busy ∧ exec (.reset b x) s = .next (softReset s)) := by
  simp only [exec, execReset]
  by_cases hs : s.st = .busy <;> simp [hs]

/-- No instruction stops the machine: every meaning answers a next state. -/
theorem exec_answers_next (i : Instr) (s : State) : ∃ t, exec i s = .next t := by
  have stream : isStreamInstr i = true → ∃ t, exec i s = .next t := fun hi => by
    rcases exec_stream_cases hi s with ⟨_, _, _, -, -, h⟩ | ⟨-, ⟨_, -, h⟩ | ⟨_, -, h⟩⟩ <;> exact ⟨_, h⟩
  cases i with
  | raw base flags r => exact stream rfl
  | delta base w flags r => exact stream rfl
  | trunc base w flags r => exact stream rfl
  | start x => rcases exec_start_cases x s with ⟨-, h⟩ | ⟨-, -, h⟩ | ⟨-, -, h⟩ <;> exact ⟨_, h⟩
  | reset b x => rcases exec_reset_cases b x s with ⟨-, h⟩ | ⟨-, h⟩ <;> exact ⟨_, h⟩

end Sys2Proof.Machine
end

