-- ==== Sys2Proof/Laws/Assembler.lean ====
section
/-! SUPPORT. What the assembler's searches and its frames can come to (`42_assembler.md` R159, R160). -/

namespace Sys2Proof.Machine

theorem firstShortChannel_none {ch : ChannelBuffers} {n c : Nat} :
    firstShortChannel ch n c = none ↔ ∀ i, i < c → n ≤ (channel ch i).length := by
  simp [firstShortChannel]

theorem firstShortChannel_some {ch : ChannelBuffers} {n c i : Nat} :
    firstShortChannel ch n c = some i ↔
      i < c ∧ (channel ch i).length < n ∧ ∀ j, j < i → n ≤ (channel ch j).length := by
  simp only [firstShortChannel, List.find?_range_eq_some, decide_eq_true_eq, List.mem_range]
  simp
  tauto

theorem someChannelExceeds_iff {ch : ChannelBuffers} {n c : Nat} :
    someChannelExceeds ch n c = true ↔ ∃ i, i < c ∧ n < (channel ch i).length := by
  simp [someChannelExceeds]

theorem frameFrom_of_long {ch : ChannelBuffers} {f n c : Nat}
    (h : ∀ i, c ≤ i → i < c + n → f < (channel ch i).length) :
    frameFrom ch f n c = some ((List.range n).map fun i => (channel ch (c + i)).getD f 0) := by
  induction n generalizing c with
  | zero => rfl
  | succ n ih =>
    have hc := h c (le_refl c) (by omega)
    rw [frameFrom, List.getElem?_eq_getElem hc, ih (c := c + 1) fun i h1 h2 => h i (by omega) (by omega)]
    simp only [List.range_succ_eq_map, List.map_cons, List.map_map, Nat.add_zero, List.getD_eq_getElem?_getD,
      List.getElem?_eq_getElem hc, Option.getD_some]
    congr 2
    apply List.map_congr_left
    intro i _
    simp [Nat.add_assoc, Nat.add_comm 1 i]

/-- A frame exists when every channel is long enough, and holds one sample of each. -/
theorem frame_of_long {ch : ChannelBuffers} {c f : Nat} (h : ∀ i, i < c → f < (channel ch i).length) :
    frame ch c f = some ((List.range c).map fun i => (channel ch i).getD f 0) := by
  rw [frame, frameFrom_of_long fun i _ h' => h i (by omega)]
  simp

theorem frameFrom_length {ch : ChannelBuffers} {f n c : Nat} {vs : List Sample} (h : frameFrom ch f n c = some vs) :
    vs.length = n := by
  induction n generalizing c vs with
  | zero => simp only [frameFrom, Option.some.injEq] at h; simp [← h]
  | succ n ih =>
    rw [frameFrom] at h
    split at h
    · next v ws _ hw => cases h; simp [ih hw]
    · cases h

theorem frame_length {ch : ChannelBuffers} {c f : Nat} {vs : List Sample} (h : frame ch c f = some vs) :
    vs.length = c := frameFrom_length h

theorem keptSamples_all (p : TrimPolicy) (n i : Nat) (vs : List Sample) : keptSamples false p n i vs = vs := by
  induction vs generalizing i with
  | nil => rfl
  | cons v vs ih => simp [keptSamples, ih]

theorem overflowCount_le (n c : Nat) : overflowCount n c ≤ 511 :=
  (Nat.div_le_self _ _).trans (by simp only [Config.cap]; omega)

end Sys2Proof.Machine
end

