-- ==== Sys2Proof/Laws/PerInstr.lean ====
section
/-! SUPPORT. Statements made once for every instruction: the fields of its word, read back under any BLOCK_MAGIC. -/

namespace Sys2Proof

section Fields
variable (magic base : BitVec 32) (bits flags : BitVec 16) (reserved : BitVec 32)

@[simp] theorem headerMagic_encodeHeader : headerMagic (encodeHeader magic base bits flags reserved) = magic := by
  apply BitVec.eq_of_getLsbD_eq
  intro i hi
  interval_cases i <;> simp [headerMagic, headerByte, encodeHeader, byteOf]

@[simp] theorem headerBase_encodeHeader : headerBase (encodeHeader magic base bits flags reserved) = base := by
  apply BitVec.eq_of_getLsbD_eq
  intro i hi
  interval_cases i <;> simp [headerBase, encodeHeader, byteOf]

@[simp] theorem headerBits_encodeHeader : headerBits (encodeHeader magic base bits flags reserved) = bits := by
  apply BitVec.eq_of_getLsbD_eq
  intro i hi
  interval_cases i <;> simp [headerBits, encodeHeader, byteOf]

@[simp] theorem headerFlags_encodeHeader : headerFlags (encodeHeader magic base bits flags reserved) = flags := by
  apply BitVec.eq_of_getLsbD_eq
  intro i hi
  interval_cases i <;> simp [headerFlags, encodeHeader, byteOf]

@[simp] theorem headerReserved_encodeHeader :
    headerReserved (encodeHeader magic base bits flags reserved) = reserved := by
  apply BitVec.eq_of_getLsbD_eq
  intro i hi
  interval_cases i <;> simp [headerReserved, encodeHeader, byteOf]

end Fields

section Ctrl
variable (resetBit startBit : Bool) (ignored : BitVec 30)

@[simp] theorem encodeCtrl_reset : (encodeCtrl resetBit startBit ignored)[1] = resetBit := by
  simp [encodeCtrl]

@[simp] theorem encodeCtrl_start : (encodeCtrl resetBit startBit ignored)[0] = startBit := by
  simp [encodeCtrl]

@[simp] theorem encodeCtrl_ignored : (encodeCtrl resetBit startBit ignored).extractLsb' 2 30 = ignored := by
  apply BitVec.eq_of_getLsbD_eq
  intro i hi
  interval_cases i <;> simp [encodeCtrl]

end Ctrl

namespace Laws.FieldsReadBack

/-- The word of an instruction holds each of its fields where `30_encoding.md` R71 and R84 place it: `bits` is 0, w or
−w (R75), and every operand, the ignored ones too, reads back. -/
def Statement : Instr → Prop
  | .raw base flags reserved => ∀ magic, ∃ h, encode magic (.raw base flags reserved) = .header h ∧
      headerMagic h = magic ∧ headerBits h = 0 ∧ headerBase h = base ∧ headerFlags h = flags ∧
      headerReserved h = reserved
  | .delta base w flags reserved => ∀ magic, ∃ h, encode magic (.delta base w flags reserved) = .header h ∧
      headerMagic h = magic ∧ headerBits h = BitVec.ofNat 16 w ∧ headerBase h = base ∧ headerFlags h = flags ∧
      headerReserved h = reserved
  | .trunc base w flags reserved => ∀ magic, ∃ h, encode magic (.trunc base w flags reserved) = .header h ∧
      headerMagic h = magic ∧ headerBits h = BitVec.ofInt 16 (-(w : Int)) ∧ headerBase h = base ∧
      headerFlags h = flags ∧ headerReserved h = reserved
  | .start ignored => ∀ magic, ∃ d, encode magic (.start ignored) = .ctrl d ∧
      d.getLsbD 1 = false ∧ d.getLsbD 0 = true ∧ d.extractLsb' 2 30 = ignored
  | .reset startBit ignored => ∀ magic, ∃ d, encode magic (.reset startBit ignored) = .ctrl d ∧
      d.getLsbD 1 = true ∧ d.getLsbD 0 = startBit ∧ d.extractLsb' 2 30 = ignored

theorem raw (base : BitVec 32) (flags : BitVec 16) (reserved : BitVec 32) : Statement (.raw base flags reserved) :=
  fun _ => ⟨_, rfl, by simp⟩

theorem delta (base : BitVec 32) (w : Nat) (flags : BitVec 16) (reserved : BitVec 32) :
    Statement (.delta base w flags reserved) :=
  fun _ => ⟨_, rfl, by simp⟩

theorem trunc (base : BitVec 32) (w : Nat) (flags : BitVec 16) (reserved : BitVec 32) :
    Statement (.trunc base w flags reserved) :=
  fun _ => ⟨_, rfl, by simp⟩

theorem start (ignored : BitVec 30) : Statement (.start ignored) := fun _ => ⟨_, rfl, by simp⟩

theorem reset (startBit : Bool) (ignored : BitVec 30) : Statement (.reset startBit ignored) :=
  fun _ => ⟨_, rfl, by simp⟩

end Laws.FieldsReadBack
end Sys2Proof
end

