-- ==== Sys2Proof/Laws/Step.lean ====
section
/-! SUPPORT. The inversion of step: all the unit's turn and a host event can do when they answer a next state. -/

namespace Sys2Proof.Machine

/-- What the unit's turn in `u` can come to. -/
inductive UnitMove (u t : State) : Prop where
  | quiet (hst : u.st ≠ .busy) (ht : t = u)
  | seek (hst : u.st = .busy) (hp : u.phase = .seek) (ht : t = Machine.seek u)
  | fetchRaises (e : Cause × Nat) (hst : u.st = .busy) (hp : u.phase = .block)
      (hm : memRead u.src u.cur.toNat Config.headerBytes = .error e) (ht : t = raise e.1 e.2 u)
  | rejected (hdr : List Byte) (f : HeaderFault) (hst : u.st = .busy) (hp : u.phase = .block)
      (hm : memRead u.src u.cur.toNat Config.headerBytes = .ok hdr)
      (hd : decodeHeader u.par.blockMagic (headerWord hdr) = .error f) (ht : t = rejectHeader f (headerWord hdr) u)
  | runs (hdr : List Byte) (i : Instr) (hst : u.st = .busy) (hp : u.phase = .block)
      (hm : memRead u.src u.cur.toNat Config.headerBytes = .ok hdr)
      (hd : decodeHeader u.par.blockMagic (headerWord hdr) = .ok i) (ht : exec i u = .next t)
  | check (hst : u.st = .busy) (hp : u.phase = .check) (ht : t = Machine.check u)
  | emits (vs : List Sample) (hst : u.st = .busy) (hp : u.phase = .interleave) (hf : u.fIdx < u.numSamples.toNat)
      (hv : frame u.ch u.channels.toNat u.fIdx = some vs) (ht : t = { u with out := u.out ++ vs, fIdx := u.fIdx + 1 })
  | ends (hst : u.st = .busy) (hp : u.phase = .interleave) (hf : ¬u.fIdx < u.numSamples.toNat)
      (ht : t = finishSession u)

/-- What a host event other than `wait` can come to, in the state `u` it has been taken off in. -/
inductive HostMove (e : HostEvent) (u t : State) : Prop where
  | command (o : Nat) (d : BitVec 32) (i : Instr) (he : e = .write o d) (hr : busReg u.par.offtabDepth o = .ctrl)
      (hd : decodeCtrl d = .ok i) (ht : exec i u = .next t)
  | noOperation (o : Nat) (d : BitVec 32) (he : e = .write o d) (hr : busReg u.par.offtabDepth o = .ctrl)
      (hd : ∀ i, decodeCtrl d ≠ .ok i) (ht : t = u)
  | write (o : Nat) (d : BitVec 32) (he : e = .write o d) (hr : busReg u.par.offtabDepth o ≠ .ctrl)
      (ht : t = writeReg (busReg u.par.offtabDepth o) d u)
  | read (o : Nat) (he : e = .read o) (ht : t = { u with rdata := readReg (busReg u.par.offtabDepth o) u })
  | take (he : e = .takeOut) (ht : t = takeOut u)
  | present (bytes : List Byte) (he : e = .presentSource bytes) (hst : u.st ≠ .busy) (hlen : bytes.length < 2 ^ 64)
      (ht : t =
        { u with src := { mem := Memory.ofBytes 0 bytes, len := BitVec.ofNat 64 bytes.length, ioFault := [] } })
  | store (a : Nat) (b : Byte) (he : e = .storeSource a b) (hst : u.st ≠ .busy) (ha : a < u.src.len.toNat)
      (ht : t = { u with src := { u.src with mem := Memory.write u.src.mem a b } })
  | fault (a : Nat) (y : Bool) (he : e = .setIoFault a y) (hst : u.st ≠ .busy)
      (ht : t = { u with src := { u.src with ioFault := setFaultAt u.src.ioFault a y } })
  | hardware (he : e = .hardwareReset) (ht : t = hardwareReset u)

/-- The outcome a turn comes to. -/
def Turn.outcome : Turn → Host.Outcome State Fault Refusal
  | .run i s => exec i s
  | .settled o => o

theorem step_eq (s : State) : step s = (nextTurn s).outcome := by
  unfold step
  cases nextTurn s <;> rfl

theorem unitTurn_cases {u t : State} (h : (unitTurn u).outcome = .next t) : UnitMove u t := by
  unfold unitTurn at h
  rcases hst : u.st <;> simp only [hst] at h
  · exact .quiet (by simp [hst]) (by simpa [Turn.outcome, eq_comm] using h)
  · rcases hp : u.phase <;> simp only [hp] at h
    · exact .seek hst hp (by simpa [Turn.outcome, eq_comm] using h)
    · unfold blockTurn at h
      rcases hm : memRead u.src u.cur.toNat Config.headerBytes with e | hdr <;> simp only [hm] at h
      · exact .fetchRaises e hst hp hm (by simpa [Turn.outcome, eq_comm] using h)
      · rcases hd : decodeHeader u.par.blockMagic (headerWord hdr) with f | i <;> simp only [hd] at h
        · exact .rejected hdr f hst hp hm hd (by simpa [Turn.outcome, eq_comm] using h)
        · exact .runs hdr i hst hp hm hd h
    · exact .check hst hp (by simpa [Turn.outcome, eq_comm] using h)
    · simp only [Turn.outcome, interleave] at h
      split at h
      · next hf =>
        split at h
        · next vs hv => exact .emits vs hst hp hf hv (by simpa [eq_comm] using h)
        · cases h
      · next hf => exact .ends hst hp hf (by simpa [eq_comm] using h)
  · exact .quiet (by simp [hst]) (by simpa [Turn.outcome, eq_comm] using h)
  · exact .quiet (by simp [hst]) (by simpa [Turn.outcome, eq_comm] using h)

theorem changeSource_next {src : Source} {u t : State} (h : changeSource src u = .next t) :
    u.st ≠ .busy ∧ t = { u with src := src } := by
  unfold changeSource at h
  split at h
  · cases h
  · next hst => exact ⟨hst, by simpa [eq_comm] using h⟩

theorem hostTurn_cases {e : HostEvent} {u t : State} (he : e ≠ .wait) (h : (hostTurn e u).outcome = .next t) :
    HostMove e u t := by
  cases e with
  | wait => exact absurd rfl he
  | write o d =>
    simp only [hostTurn, writeTurn] at h
    split at h
    · by_cases hr : busReg u.par.offtabDepth o = .ctrl
      · simp only [hr, ctrlTurn] at h
        rcases hd : decodeCtrl d with f | i <;> simp only [hd] at h
        · exact .noOperation o d rfl hr (by simp [hd]) (by simpa [Turn.outcome, eq_comm] using h)
        · exact .command o d i rfl hr hd h
      · refine .write o d rfl hr ?_
        split at h
        · next h' => exact absurd h' hr
        · simpa [Turn.outcome, eq_comm] using h
    · cases h
  | read o =>
    simp only [hostTurn, readTurn] at h
    split at h
    · exact .read o rfl (by simpa [Turn.outcome, eq_comm] using h)
    · cases h
  | takeOut => exact .take rfl (by simpa [hostTurn, Turn.outcome, eq_comm] using h)
  | presentSource bytes =>
    simp only [hostTurn, Turn.outcome, presentSource] at h
    split at h
    · next hl => exact .present bytes rfl (changeSource_next h).1 hl (changeSource_next h).2
    · cases h
  | storeSource a b =>
    simp only [hostTurn, Turn.outcome, storeSource] at h
    split at h
    · next ha => exact .store a b rfl (changeSource_next h).1 ha (changeSource_next h).2
    · cases h
  | setIoFault a y =>
    simp only [hostTurn, Turn.outcome, setIoFault] at h
    exact .fault a y rfl (changeSource_next h).1 (changeSource_next h).2
  | hardwareReset => exact .hardware rfl (by simpa [hostTurn, Turn.outcome, eq_comm] using h)

/-- All a step can do: the unit's turn, when no host event is pending or the pending one is `wait`, or a host event. -/
theorem step_cases {s t : State} (h : step s = .next t) :
    (s.host = [] ∧ UnitMove s t) ∨
    (∃ es, s.host = .wait :: es ∧ UnitMove { s with host := es } t) ∨
    (∃ e es, s.host = e :: es ∧ e ≠ .wait ∧ HostMove e { s with host := es } t) := by
  rw [step_eq] at h
  unfold nextTurn at h
  rcases hh : s.host with _ | ⟨e, es⟩ <;> simp only [hh] at h
  · exact .inl ⟨rfl, unitTurn_cases h⟩
  · right
    by_cases he : e = .wait
    · subst he
      exact .inl ⟨es, rfl, unitTurn_cases h⟩
    · exact .inr ⟨e, es, rfl, he, hostTurn_cases he h⟩

/-- In the unit's turn a step is that turn. -/
theorem step_of_unitTurn {s u : State} (h : UnitTurnIn s u) : step s = (unitTurn u).outcome := by
  rw [step_eq]
  rcases h with ⟨h, rfl⟩ | ⟨es, h, rfl⟩ <;> simp [nextTurn, h, hostTurn]

/-- A pending host event is what a step takes. -/
theorem step_of_host {s : State} {e : HostEvent} {es : List HostEvent} (h : s.host = e :: es) :
    step s = (hostTurn e { s with host := es }).outcome := by
  simp [step_eq, nextTurn, h]

/-! The register map (`10_state.md` R26). -/

theorem busReg_offtab {depth g : Nat} (h : g < depth) : busReg depth (0x1000 + 4 * g) = .offtab g := by
  unfold busReg
  split <;> first | omega | skip
  rw [if_pos (by constructor <;> omega)]
  congr 1
  omega

theorem busReg_offtab_absent {depth g : Nat} (h : depth ≤ g) : busReg depth (0x1000 + 4 * g) = .reserved := by
  unfold busReg
  split <;> first | omega | skip
  rw [if_neg (by omega)]

theorem busReg_reserved {depth o : Nat} (h : 0x38 ≤ o) (h' : o ≤ 0xFFF) : busReg depth o = .reserved := by
  unfold busReg
  split <;> first | omega | skip
  rw [if_neg (by omega)]

theorem busReg_offtab_lt {depth o g : Nat} (h : busReg depth o = .offtab g) : g < depth := by
  unfold busReg at h
  split at h <;> first | cases h | skip
  split at h
  · next hd => cases h; exact hd.2
  · cases h

theorem busReg_ctrl {depth o : Nat} (h : busReg depth o = .ctrl) : o = 0 := by
  unfold busReg at h
  split at h <;> first | rfl | cases h | skip
  split at h <;> cases h

end Sys2Proof.Machine
end

