-- ==== Sys2Proof/Tests/Slice0.lean ====
section
/-! SUPPORT. Tests with expected values taken from the spec (`95_test_vectors.md` unless another file is named), and for
every statement with hypotheses a witness that meets them. -/

namespace Sys2Proof.Tests

open Sys2Proof Sys2Proof.Machine

/-! WellFormed: each check refuses an ill-formed term. -/

theorem test_flags_bit0_refused : (Instr.raw 0 0x0001 0).wellFormed = false := by decide
theorem test_flags_bit1_refused : (Instr.raw 0 0x0002 0).wellFormed = false := by decide
theorem test_delta_flags_refused : (Instr.delta 0 4 0xFFFD 0).wellFormed = false := by decide
theorem test_trunc_flags_refused : (Instr.trunc 0 4 0xFFFE 0).wellFormed = false := by decide
theorem test_delta_width_refused :
    (Instr.delta 0 0 0 0).wellFormed = false ∧ (Instr.delta 0 33 0 0).wellFormed = false := by decide
theorem test_trunc_width_refused :
    (Instr.trunc 0 0 0 0).wellFormed = false ∧ (Instr.trunc 0 33 0 0).wellFormed = false := by decide

/-! Decoding: words written out from `30_encoding.md` R71, R72, R84. -/

/-- Header bytes of V-B1 as SRC holds them. -/
def rawHeader : List Byte := [0x16, 0x0C, 0x9A, 0x3E, 0, 0, 0, 0, 0, 0, 0, 0, 0, 0, 0, 0]
/-- V-B5: base 100, bits 4. -/
def deltaHeader : List Byte := [0x16, 0x0C, 0x9A, 0x3E, 0x64, 0, 0, 0, 0x04, 0, 0, 0, 0, 0, 0, 0]
/-- V-B12: base -1, bits -32, flags 0xFFFC, reserved DE AD BE EF. -/
def truncHeader : List Byte :=
  [0x16, 0x0C, 0x9A, 0x3E, 0xFF, 0xFF, 0xFF, 0xFF, 0xE0, 0xFF, 0xFC, 0xFF, 0xDE, 0xAD, 0xBE, 0xEF]
/-- V-B6: base 2147483647, bits 32. -/
def wideDeltaHeader : List Byte := [0x16, 0x0C, 0x9A, 0x3E, 0xFF, 0xFF, 0xFF, 0x7F, 0x20, 0, 0, 0, 0, 0, 0, 0]
/-- V-B10: bits -4. -/
def narrowTruncHeader : List Byte := [0x16, 0x0C, 0x9A, 0x3E, 0, 0, 0, 0, 0xFC, 0xFF, 0, 0, 0, 0, 0, 0]

theorem test_decode_raw : decodeHeader Config.defaultMagic (headerWord rawHeader) = .ok (.raw 0 0 0) := by decide
theorem test_decode_delta : decodeHeader Config.defaultMagic (headerWord deltaHeader) = .ok (.delta 100 4 0 0) := by
  decide
theorem test_decode_trunc : decodeHeader Config.defaultMagic (headerWord truncHeader)
    = .ok (.trunc 0xFFFFFFFF 32 0xFFFC 0xEFBEADDE) := by decide
theorem test_decode_start : decode 0 (.ctrl 0xFFFFFFFD) = .ok (.start 0x3FFFFFFF) := by decide
theorem test_decode_reset : decode 0 (.ctrl 0x00000003) = .ok (.reset true 0) := by decide
theorem test_decode_no_operation : decode 0 (.ctrl 0x00000004) = .error .noOperation := by decide

/-- V-E1, V-E3, V-E4, V-E6, V-E7, V-E8, V-E10: the first fault of R81 is the one reported. -/
theorem test_decode_faults :
    decodeHeader Config.defaultMagic (headerWord [0x16, 0x0C, 0x9A, 0x3F, 0, 0, 0, 0, 0, 0, 1, 0, 0, 0, 0, 0])
        = .error .invalidBlockSignature
      ∧ decodeHeader Config.defaultMagic (headerWord [0x16, 0x0C, 0x9A, 0x3E, 0, 0, 0, 0, 0, 0, 3, 0, 0, 0, 0, 0])
        = .error .unsupportedChannelEncoding
      ∧ decodeHeader Config.defaultMagic (headerWord [0x16, 0x0C, 0x9A, 0x3E, 0, 0, 0, 0, 0, 0, 2, 0, 0, 0, 0, 0])
        = .error .unsupportedSampleFormat
      ∧ decodeHeader Config.defaultMagic (headerWord [0x16, 0x0C, 0x9A, 0x3E, 0, 0, 0, 0, 33, 0, 0, 0, 0, 0, 0, 0])
        = .error .unsupportedWidth
      ∧ decodeHeader Config.defaultMagic (headerWord [0x16, 0x0C, 0x9A, 0x3E, 0, 0, 0, 0, 0, 0x80, 0, 0, 0, 0, 0, 0])
        = .error .unsupportedWidth
      ∧ decodeHeader Config.defaultMagic (headerWord [0x16, 0x0C, 0x9A, 0x3E, 0, 0, 0, 0, 0xDF, 0xFF, 0, 0, 0, 0, 0, 0])
        = .error .unsupportedWidth
      ∧ decodeHeader Config.defaultMagic (headerWord [0x16, 0x0C, 0x9A, 0x3E, 0, 0, 0, 0, 40, 0, 1, 0, 0, 0, 0, 0])
        = .error .unsupportedChannelEncoding := by decide

/-- The encoder writes the bytes the notation R85 stands for. -/
theorem test_encode_words :
    encode Config.defaultMagic (.delta 100 4 0 0) = .header 0x0000000000000004000000643E9A0C16
      ∧ encode Config.defaultMagic (.trunc 0 12 0 0) = .header 0x000000000000FFF4000000003E9A0C16
      ∧ encode 0 (.start 0) = .ctrl 1 ∧ encode 0 (.reset false 0) = .ctrl 2 := by decide

/-! The unpacker. -/

/-- SEXT corners of section 2.1. -/
theorem test_sext_corners :
    sext32 0 1 = 0 ∧ (sext32 1 1).toInt = -1 ∧ (sext32 0x7FFFFFFF 32).toInt = 2147483647
      ∧ (sext32 0x80000000 32).toInt = -2147483648 ∧ (sext32 0x800 12).toInt = -2048
      ∧ (sext32 0x7FF 12).toInt = 2047 := by decide

/-- V-U3, V-U4, V-U9, V-U14 at widths whose fields straddle bytes. -/
theorem test_unpack_straddles :
    (unpackLoop 1 8 [0xA5] Unpacker.start).2.map BitVec.toInt = [-1, 0, -1, 0, 0, -1, 0, -1]
      ∧ (unpackLoop 3 8 [0x88, 0xC6, 0xFA] Unpacker.start).2.map BitVec.toInt = [0, 1, 2, 3, -4, -3, -2, -1]
      ∧ (unpackLoop 5 8 [0x1F, 0x7C, 0xF0, 0xC1, 0x07] Unpacker.start).2.map BitVec.toInt
        = [-1, 0, -1, 0, -1, 0, -1, 0]
      ∧ (unpackLoop 31 2 [0xFF, 0xFF, 0xFF, 0x7F, 0, 0, 0, 0x20] Unpacker.start).2.map BitVec.toInt
        = [-1, -1073741824] := by decide

/-- S4 as corrected, and V-U6 to V-U8, V-U15. -/
theorem test_unpack_rows :
    (unpackLoop 12 2 [0xFF, 0x0F, 0] Unpacker.start).2.map BitVec.toInt = [-1, 0]
      ∧ (unpackLoop 12 2 [0xFF, 0xF0, 0] Unpacker.start).2.map BitVec.toInt = [255, 15]
      ∧ (unpackLoop 12 2 [0x23, 0xC1, 0xAB] Unpacker.start).2.map BitVec.toInt = [291, -1348]
      ∧ (unpackLoop 32 3 [0, 0, 0, 0x80, 0xFF, 0xFF, 0xFF, 0x7F, 0xFF, 0xFF, 0xFF, 0xFF] Unpacker.start).2.map
          BitVec.toInt = [-2147483648, 2147483647, -1] := by decide

/-! The stream instructions. -/

/-- A session of one channel and one group, about to run the BLOCK at address 0 of this source. -/
def atBlock (bps : BitVec 16) (len : BitVec 64) (bytes : List Byte) : State :=
  { State.reset with
    st := .busy, phase := .block, channels := 1, bitsPerSample := bps, numSamples := 512, numGroups := 1
    src := { mem := Memory.ofBytes 0 bytes, len := len, ioFault := [] } }

/-- The same with a second channel, so that the sequencer stays in the group. -/
def atBlockOfTwo (bps : BitVec 16) (len : BitVec 64) (bytes : List Byte) : State :=
  { atBlock bps len bytes with channels := 2, numSamples := 256 }

/-- What a test reads from an outcome: something of the next state, if there is one. -/
def nextOf {α : Type} (o : Host.Outcome State Fault Refusal) (f : State → α) : Option α :=
  match o with
  | .next t => some (f t)
  | .fault _ => none
  | .refused _ => none

/-- V-B2 and V-B3: RAW at depths 16 and 24; CUR ends at 16 + PAY_LEN. -/
theorem test_raw_depth_16 :
    nextOf (exec (.raw 0 0 0) (atBlock 16 1040 (rawHeader ++ [0x34, 0x12, 0xFE, 0xFF, 0x00, 0x80, 0xFF, 0x7F])))
        (fun t => ((t.sbuf.take 4).map BitVec.toInt, t.cur)) = some ([4660, -2, -32768, 32767], 1040) := by
  decide +kernel

theorem test_raw_depth_24 :
    nextOf (step (atBlock 24 1552 (rawHeader ++ [0x00, 0x00, 0x80, 0xFF, 0xFF, 0x7F, 0x56, 0x34, 0x12])))
        (fun t => ((t.sbuf.take 4).map BitVec.toInt, t.cur)) = some ([-8388608, 8388607, 1193046, 0], 1552) := by
  decide +kernel

/-- V-B5, the source's example S2. -/
theorem test_delta_running_sum :
    nextOf (step (atBlock 16 272 (deltaHeader ++ [0xF1, 0x02])))
        (fun t => ((t.sbuf.take 5).map BitVec.toInt, t.ovf, t.cur)) = some ([100, 101, 100, 102, 102], false, 272) := by
  decide +kernel

/-- V-B6: the sum wraps and OVF is set. -/
theorem test_delta_wraps :
    nextOf (step (atBlock 16 2064 (wideDeltaHeader ++
          [0x01, 0, 0, 0, 0xFF, 0xFF, 0xFF, 0xFF, 0, 0, 0, 0x80])))
        (fun t => ((t.sbuf.take 4).map BitVec.toInt, t.ovf, t.cur))
      = some ([2147483647, -2147483648, 2147483647, -1], true, 2064) := by
  decide +kernel

/-- V-B10. -/
theorem test_trunc_narrow :
    nextOf (step (atBlock 16 272 (narrowTruncHeader ++ [0x78])))
        (fun t => ((t.sbuf.take 3).map BitVec.toInt, t.ovf, t.cur)) = some ([-8, 7, 0], false, 272) := by
  decide +kernel

/-- V-B12: the widest field; flags 2 to 15, base and reserved bytes ignored. -/
theorem test_trunc_wide :
    nextOf (step (atBlock 16 2064 (truncHeader ++ [0, 0, 0, 0x80, 0xFF, 0xFF, 0xFF, 0x7F])))
        (fun t => ((t.sbuf.take 3).map BitVec.toInt, t.prev, t.cur))
      = some ([-2147483648, 2147483647, 0], 0, 2064) := by
  decide +kernel

/-! The assembler. -/

/-- Section 2.3: OVERFLOW of V-A1 to V-A9. -/
theorem test_overflow_table :
    overflowCount 512 1 = 0 ∧ overflowCount 768 1 = 256 ∧ overflowCount 1000 1 = 488 ∧ overflowCount 384 2 = 128
      ∧ overflowCount 1000 3 = 146 ∧ overflowCount 100 1 = 100 ∧ overflowCount 1024 600 = 0
      ∧ overflowCount 4294967295 2 = 255 ∧ overflowCount 44100 2 = 68 := by decide

/-- A session in INTERLEAVE with two channels of two samples (section 2.3). -/
def atInterleave : State :=
  { State.reset with
    st := .busy, phase := .interleave, channels := 2, numSamples := 2, numGroups := 1, gIdx := 1, cIdx := 1
    ch := [(0, [1, 2]), (1, [10, 20])] }

/-- Section 2.3, INTERLEAVE: OUT = 1, 10, 2, 20. -/
theorem test_interleave_order :
    (match Sys2Proof.core.run 3 atInterleave with
      | .next t => some (State.out t, State.st t)
      | .fault _ => none
      | .refused _ => none) = some ([1, 10, 2, 20], .done) := by decide

/-- A session in SEEK at the largest offsets (section 2.3, SEEK): no wrap at 32 bits. -/
def atSeek : State :=
  { State.reset with
    st := .busy, phase := .seek, channels := 1, numSamples := 512, numGroups := 1, dataOffset := 0xFFFFFFFF
    offtab := { epoch := 0, written := [(0, 0xFFFFFFFF)] } }

theorem test_seek_does_not_wrap : nextOf (step atSeek) (fun t => t.cur) = some 0x1FFFFFFFE := by decide

/-- A session in CHECK. -/
def atCheck (n : BitVec 32) (bufs : ChannelBuffers) : State :=
  { State.reset with
    st := .busy, phase := .check, channels := 2, numSamples := n, numGroups := 2, gIdx := 2, cIdx := 2, cur := 0x124
    ch := bufs }

/-- V-E15: LengthShort with ERR_GROUP = NUM_GROUPS and ERR_ADDR = CUR. -/
theorem test_check_short :
    nextOf (step (atCheck 2 [(0, [7, 8]), (1, [9])]))
        (fun t => (t.st, t.errCode, t.errGroup, t.errChan, t.errAddr, t.ch.length))
      = some (.error, 9, 2, 1, 0x124, 0) := by
  decide

/-! Host commands and registers (section 2.5). -/

/-- `s` with these host events pending. -/
def hosting (es : List HostEvent) (s : State) : State := { s with host := es }

/-- IDLE with a legal configuration (P1). -/
def configured : State :=
  { State.reset with channels := 1, bitsPerSample := 16, numSamples := 512, numGroups := 1, dataOffset := 128 }

/-- V-H1: START right after hardware reset raises ConfigError. -/
theorem test_start_config_error :
    nextOf (step (hosting [.write 0 1] State.reset)) (fun t => (t.st, t.errCode, t.errAddr)) = some (.error, 8, 0) := by
  decide

/-- V-H3: the ignored bits of START. -/
theorem test_start_accepted :
    nextOf (step (hosting [.write 0 0xFFFFFFFD] configured)) (fun t => (t.st, t.phase, t.overflow))
      = some (.busy, .seek, 0) := by decide

/-- V-H7: RESET in DONE. -/
theorem test_reset_after_done :
    nextOf (step (hosting [.write 0 2] { configured with st := .done, ovf := true, exc := true, cur := 7 }))
      (fun t => (t.st, statusWord t.st t.ovf t.exc, t.cur, t.dataOffset)) = some (.idle, 0, 0, 128) := by decide

/-- V-H9. -/
theorem test_channels_write :
    nextOf (step (hosting [.write 8 0x00010002] State.reset)) (fun t => t.channels) = some 2 := by decide

/-- V-H13. -/
theorem test_status_read :
    nextOf (step (hosting [.read 4] { State.reset with st := .done, ovf := true })) (fun t => t.rdata)
      = some 0x00000012 := by decide

/-! Witnesses. For each statement with hypotheses, by its name: inputs that meet the hypotheses of each of its clauses
together, at the boundary where the clause has one. -/

theorem witness_ResetTableBothColumns :
    (hosting [.hardwareReset] configured).host = .hardwareReset :: [] ∧ configured.st ≠ .busy := by decide

theorem witness_ResetCommandCompletes :
    (atBlock 16 272 []).st = .busy ∧ { configured with st := .error }.st ≠ .busy := by decide

theorem witness_DecodeEncodeRoundTrip :
    (Instr.raw 5 0xFFFC 7).wellFormed = true ∧ (Instr.delta 0 1 0 0).wellFormed = true
      ∧ (Instr.delta 0 32 0 0).wellFormed = true ∧ (Instr.trunc 0 1 0 0).wellFormed = true
      ∧ (Instr.trunc 0 32 0 0).wellFormed = true ∧ (Instr.start 0).wellFormed = true
      ∧ (Instr.reset true 0).wellFormed = true := by decide

theorem witness_EncodeDecodeRoundTrip :
    decode Config.defaultMagic (.header 0xEFBEADDEFFFCFFE0FFFFFFFF3E9A0C16)
        = .ok (.trunc 0xFFFFFFFF 32 0xFFFC 0xEFBEADDE)
      ∧ decode 0 (.ctrl 0xFFFFFFFF) = .ok (.reset true 0x3FFFFFFF) := by decide

/-- Clause by clause: another magic; flag bit 0; flag bit 1 alone; bits 0, 1, 32, -1, -32, 33, -33. -/
theorem witness_HeaderBytesDecode :
    rawHeader.length = 16 ∧ beNat (rawHeader.take 4) ≠ 0 ∧ beNat (rawHeader.take 4) = Config.defaultMagic.toNat
      ∧ (BitVec.ofNat 16 (leNat [1, 0])).getLsbD 0 = true
      ∧ (BitVec.ofNat 16 (leNat [2, 0])).getLsbD 0 = false ∧ (BitVec.ofNat 16 (leNat [2, 0])).getLsbD 1 = true
      ∧ ([[0, 0], [1, 0], [0x20, 0], [0xFF, 0xFF], [0xE0, 0xFF], [0x21, 0], [0xDF, 0xFF]] : List (List Byte)).map
          (fun b => (BitVec.ofNat 16 (leNat b)).toInt) = [0, 1, 32, -1, -32, 33, -33] := by decide

theorem witness_CtrlWordDecode :
    (2 : BitVec 32).getLsbD 1 = true ∧ ((1 : BitVec 32).getLsbD 1 = false ∧ (1 : BitVec 32).getLsbD 0 = true)
      ∧ (4 : BitVec 32).getLsbD 1 = false ∧ (4 : BitVec 32).getLsbD 0 = false := by decide

/-- A source of four bytes that cannot be read at address 2. -/
def smallSource : Source := { mem := [(0, 5), (3, 9)], len := 4, ioFault := [2] }

/-- Clause by clause: one byte past the end; the last bytes, one faulty; the bytes before the fault. -/
theorem witness_MemReadAnswers :
    Memory.wf smallSource.mem ∧ smallSource.len.toNat < 3 + 2
      ∧ (2 + 2 ≤ smallSource.len.toNat ∧ ∃ x ∈ smallSource.ioFault, 2 ≤ x ∧ x < 2 + 2) ∧ Readable smallSource 0 2 := by
  refine ⟨by decide, by decide, ⟨by decide, 2, by decide, by decide⟩, by decide, ?_⟩
  simp [smallSource]

theorem witness_SourceFixedWhileBusy : atSeek.st = .busy ∧ ∃ t, step atSeek = .next t := ⟨rfl, _, rfl⟩

/-- The last byte SRC has, and the first it has not; a source of one byte too many; io_fault set next to an address where
it holds, and cleared there; in a session and outside. -/
theorem witness_HostWritesSource :
    Memory.wf smallSource.mem
      ∧ (hosting [.presentSource [1, 0]] configured).host = .presentSource [1, 0] :: []
      ∧ (hosting [.storeSource 3 1] { configured with src := smallSource }).host = .storeSource 3 1 :: []
      ∧ 3 < smallSource.len.toNat ∧ smallSource.len.toNat ≤ 4 ∧ configured.st ≠ .busy ∧ atSeek.st = .busy
      ∧ 2 ^ 64 ≤ (List.replicate (2 ^ 64) (0 : Byte)).length
      ∧ (hosting [.setIoFault 3 true] { configured with src := smallSource }).host = .setIoFault 3 true :: []
      ∧ (hosting [.setIoFault 2 false] { configured with src := smallSource }).host = .setIoFault 2 false :: []
      ∧ smallSource.ioFault.Pairwise (· < ·) :=
  ⟨by decide, by decide, by decide, by decide, by decide, by decide, by decide, List.length_replicate.ge, by decide,
    by decide, by decide⟩

theorem witness_OutConsumedInOrder :
    (hosting [.takeOut] { configured with out := [7] }).host = .takeOut :: []
      ∧ ({ configured with out := [7] } : State).out[configured.taken]? = some 7
      ∧ configured.out.length ≤ configured.taken := by decide

theorem witness_SextIsTwosComplement :
    (1 < 2 ^ 1 ∧ Nat.testBit 1 (1 - 1) = true) ∧ (0 < 2 ^ 1 ∧ Nat.testBit 0 (1 - 1) = false)
      ∧ (0x80000000 < 2 ^ 32 ∧ Nat.testBit 0x80000000 (32 - 1) = true)
      ∧ 0x7FFFFFFF < 2 ^ 32 ∧ Nat.testBit 0x7FFFFFFF (32 - 1) = false := by decide

/-- The largest NBITS at which FEED runs, with every bit of ACC below it set. -/
theorem witness_FeedAndExtractExact :
    let u : Unpacker := { acc := 0x7FFFFFFF, nbits := 31, payPtr := 4, k := 1 }
    u.nbits ≤ 31 ∧ u.acc.toNat < 2 ^ u.nbits ∧ 1 ≤ 32 ∧ 32 ≤ 32 := by decide

theorem witness_UnpackLoopIsClosedForm :
    64 * 1 ≤ (List.replicate 64 (0xA5 : Byte)).length ∧ 64 * 32 ≤ (List.replicate 2048 (0xA5 : Byte)).length :=
  ⟨List.length_replicate.ge, List.length_replicate.ge⟩

theorem witness_UnpackConsumesPayloadExactly :
    64 * 1 ≤ (List.replicate 64 (0xA5 : Byte)).length ∧ 64 * 32 ≤ (List.replicate 2048 (0xA5 : Byte)).length :=
  ⟨List.length_replicate.ge, List.length_replicate.ge⟩

/-- The bit of field 1 at width 12 that is the last of byte 2. -/
theorem witness_PackedBitsAreLsbFirst : 11 < 12 ∧ (1 * 12 + 11) / 8 < ([0x23, 0xC1, 0xAB] : List Byte).length := by
  decide

/-- The states of the value tests are ready, the source ending with the payload. -/
theorem witness_RawCompletes :
    StreamReady (.raw 0 0 0) (atBlock 8 528 rawHeader) ∧ StreamReady (.raw 0 0 0) (atBlock 32 2064 rawHeader)
      ∧ Memory.wf (atBlock 8 528 rawHeader).src.mem ∧ Memory.wf (atBlock 32 2064 rawHeader).src.mem := by
  refine ⟨⟨by decide, by decide, by decide, ?_⟩, ⟨by decide, by decide, by decide, ?_⟩, by decide, by decide⟩ <;>
    simp [atBlock]

theorem witness_DeltaCompletes :
    StreamReady (.delta 100 4 0 0) (atBlock 16 272 deltaHeader)
      ∧ StreamReady (.delta 0x7FFFFFFF 32 0 0) (atBlock 16 2064 wideDeltaHeader)
      ∧ Memory.wf (atBlock 16 272 deltaHeader).src.mem ∧ Memory.wf (atBlock 16 2064 wideDeltaHeader).src.mem := by
  refine ⟨⟨by decide, by decide, by decide, ?_⟩, ⟨by decide, by decide, by decide, ?_⟩, by decide, by decide⟩ <;>
    simp [atBlock]

theorem witness_TruncCompletes :
    StreamReady (.trunc 0 4 0 0) (atBlock 16 272 narrowTruncHeader)
      ∧ StreamReady (.trunc 0xFFFFFFFF 32 0xFFFC 0xEFBEADDE) (atBlock 16 2064 truncHeader)
      ∧ Memory.wf (atBlock 16 272 narrowTruncHeader).src.mem ∧ Memory.wf (atBlock 16 2064 truncHeader).src.mem := by
  refine ⟨⟨by decide, by decide, by decide, ?_⟩, ⟨by decide, by decide, by decide, ?_⟩, by decide, by decide⟩ <;>
    simp [atBlock]

/-- The group's last channel, and one before it. -/
theorem witness_BlockAppendsAndAdvances :
    StreamReady (.delta 100 4 0 0) (atBlock 16 272 deltaHeader)
      ∧ (atBlock 16 272 deltaHeader).ch.Pairwise (fun a b => a.1 < b.1)
      ∧ (atBlock 16 272 deltaHeader).channels.toNat ≤ (atBlock 16 272 deltaHeader).cIdx + 1
      ∧ StreamReady (.delta 100 4 0 0) (atBlockOfTwo 16 272 deltaHeader)
      ∧ (atBlockOfTwo 16 272 deltaHeader).cIdx + 1 < (atBlockOfTwo 16 272 deltaHeader).channels.toNat := by
  refine ⟨⟨by decide, by decide, by decide, ?_⟩, by decide, by decide, ⟨by decide, by decide, by decide, ?_⟩, by decide⟩
    <;> simp [atBlock, atBlockOfTwo]

/-- One instruction that completes, and one whose payload is missing and that raises. -/
theorem witness_StreamFrame :
    isStreamInstr (.trunc 0 4 0 0) = true
      ∧ (∃ t, exec (.trunc 0 4 0 0) (atBlock 16 272 narrowTruncHeader) = .next t)
      ∧ (atBlock 16 16 rawHeader).st ≠ .error
      ∧ ∃ t, exec (.raw 0 0 0) (atBlock 16 16 rawHeader) = .next t ∧ t.st = .error :=
  ⟨rfl, exec_answers_next _ _, by decide, _, rfl, rfl⟩

theorem witness_RawOtherDepthRaises :
    (atBlock 12 528 rawHeader).bitsPerSample.toNat ≠ 8 ∧ (atBlock 12 528 rawHeader).bitsPerSample.toNat ≠ 16
      ∧ (atBlock 12 528 rawHeader).bitsPerSample.toNat ≠ 24 ∧ (atBlock 12 528 rawHeader).bitsPerSample.toNat ≠ 32 := by
  decide

/-- A payload one byte short; and one that is whole but not readable at its first byte. -/
theorem witness_PayloadFetchRaises :
    (isStreamInstr (.delta 100 4 0 0) = true ∧ (Instr.delta 100 4 0 0).wellFormed = true
      ∧ (0 : BitVec 64).toNat + 16 ≤ (atBlock 16 271 deltaHeader).src.len.toNat
      ∧ (atBlock 16 271 deltaHeader).src.len.toNat < 0 + 16 + payloadBytes (.delta 100 4 0 0) (atBlock 16 271 []))
      ∧ 0 + 16 + payloadBytes (.delta 100 4 0 0) (atBlock 16 272 []) ≤ (atBlock 16 272 deltaHeader).src.len.toNat
      ∧ 16 ∈ ({ (atBlock 16 272 deltaHeader).src with ioFault := [16] } : Source).ioFault := by decide

theorem witness_BlockSamplesDependOnOwnBytes :
    StreamReady (.delta 100 4 0 0) (atBlock 16 272 deltaHeader)
      ∧ StreamReady (.delta 100 4 0 0) (atBlock 24 272 (0 :: deltaHeader.tail))
      ∧ payloadAt (.delta 100 4 0 0) (atBlock 16 272 deltaHeader)
        = payloadAt (.delta 100 4 0 0) (atBlock 24 272 (0 :: deltaHeader.tail))
      ∧ (∃ t, exec (.delta 100 4 0 0) (atBlock 16 272 deltaHeader) = .next t)
      ∧ ∃ t, exec (.delta 100 4 0 0) (atBlock 24 272 (0 :: deltaHeader.tail)) = .next t := by
  refine ⟨⟨by decide, by decide, by decide, ?_⟩, ⟨by decide, by decide, by decide, ?_⟩, by decide +kernel,
    exec_answers_next _ _, exec_answers_next _ _⟩ <;> simp [atBlock]

/-- The unit's turn, with nothing pending and with `wait` pending. -/
theorem witness_UnitTurnIn (s : State) (h : s.host = []) :
    UnitTurnIn s s ∧ UnitTurnIn (hosting [.wait] s) s := by
  refine ⟨.inl ⟨h, rfl⟩, .inr ⟨[], rfl, ?_⟩⟩
  cases s
  cases h
  rfl

/-- A header one byte short; and one that is whole but not readable at its last byte; with nothing pending and with
`wait` pending. -/
theorem witness_HeaderFetchRaises :
    let s := atBlock 16 15 rawHeader
    let t := { atBlock 16 16 rawHeader with src := { (atBlock 16 16 rawHeader).src with ioFault := [15] } }
    (UnitTurnIn s s ∧ UnitTurnIn (hosting [.wait] s) s ∧ s.st = .busy ∧ s.phase = .block
      ∧ s.src.len.toNat < s.cur.toNat + 16)
      ∧ UnitTurnIn t t ∧ UnitTurnIn (hosting [.wait] t) t ∧ t.st = .busy ∧ t.phase = .block
      ∧ t.cur.toNat + 16 ≤ t.src.len.toNat ∧ 15 ∈ t.src.ioFault ∧ 15 < t.cur.toNat + 16
      ∧ ∀ x ∈ t.src.ioFault, t.cur.toNat ≤ x → x < t.cur.toNat + 16 → 15 ≤ x :=
  ⟨⟨(witness_UnitTurnIn _ rfl).1, (witness_UnitTurnIn _ rfl).2, rfl, rfl, by decide⟩, (witness_UnitTurnIn _ rfl).1,
    (witness_UnitTurnIn _ rfl).2, rfl, rfl, by decide, by decide, by decide, by decide⟩

/-- A header of a fault that is latched, and of the one that is not; with nothing pending and with `wait` pending. -/
theorem witness_FaultyHeaderRaises :
    let hdr : List Byte := [0x16, 0x0C, 0x9A, 0x3E, 0, 0, 0, 0, 33, 0, 0, 0, 0, 0, 0, 0]
    let s := atBlock 16 16 hdr
    UnitTurnIn s s ∧ UnitTurnIn (hosting [.wait] s) s ∧ s.st = .busy ∧ s.phase = .block
      ∧ memRead s.src s.cur.toNat 16 = .ok hdr
      ∧ decodeHeader s.par.blockMagic (headerWord hdr) = .error .unsupportedWidth
      ∧ decodeHeader 0 (headerWord hdr) = .error .invalidBlockSignature :=
  ⟨(witness_UnitTurnIn _ rfl).1, (witness_UnitTurnIn _ rfl).2, rfl, rfl, by decide, by decide, by decide⟩

theorem witness_SeekSetsCursor : UnitTurnIn atSeek atSeek ∧ atSeek.st = .busy ∧ atSeek.phase = .seek :=
  ⟨(witness_UnitTurnIn atSeek rfl).1, rfl, rfl⟩

/-- The values at which the clauses of OverflowFormulaValues meet. -/
theorem witness_OverflowFormulaValues : 1 ≤ 1 ∧ 9 ≤ 9 ∧ 511 < 512 ∧ overflowCount 7 512 = 0 := by decide

theorem witness_TrimPoliciesKeep : (List.replicate 512 (1 : Sample)).length = 512 ∧ 511 ≤ 511 :=
  ⟨List.length_replicate, le_refl 511⟩

/-- The second channel is the first that is too short, by one sample. -/
theorem witness_CheckShortRaises :
    let s := atCheck 2 [(0, [7, 8]), (1, [9])]
    UnitTurnIn s s ∧ s.st = .busy ∧ s.phase = .check ∧ 1 < s.channels.toNat
      ∧ (channel s.ch 1).length < s.numSamples.toNat
      ∧ ∀ d, d < 1 → s.numSamples.toNat ≤ (channel s.ch d).length :=
  ⟨(witness_UnitTurnIn _ rfl).1, rfl, rfl, by decide, by decide, by decide⟩

/-- One channel has exactly NUM_SAMPLES samples, the other one more. -/
theorem witness_CheckPasses :
    let s := atCheck 1 [(0, [7, 8]), (1, [9])]
    UnitTurnIn s s ∧ s.st = .busy ∧ s.phase = .check ∧ s.channels.toNat ≠ 0
      ∧ ∀ c, c < s.channels.toNat → s.numSamples.toNat ≤ (channel s.ch c).length :=
  ⟨(witness_UnitTurnIn _ rfl).1, rfl, rfl, by decide, by decide⟩

/-- Before the last frame, and after it. -/
theorem witness_InterleaveEmitsFrame :
    let s := { atInterleave with fIdx := 1 }
    let t := { atInterleave with fIdx := 2 }
    (UnitTurnIn s s ∧ s.st = .busy ∧ s.phase = .interleave ∧ s.fIdx < s.numSamples.toNat
      ∧ ∀ c, c < s.channels.toNat → s.fIdx < (channel s.ch c).length)
      ∧ UnitTurnIn t t ∧ t.st = .busy ∧ t.phase = .interleave ∧ t.numSamples.toNat ≤ t.fIdx :=
  ⟨⟨(witness_UnitTurnIn _ rfl).1, rfl, rfl, by decide, by decide⟩, (witness_UnitTurnIn _ rfl).1, rfl, rfl, by decide⟩

theorem configured_good : ConfigGood configured := by
  refine ⟨by decide, by decide, by decide, ?_⟩
  simp [configured, State.reset, State.afterHardwareReset, Config.defaultParams]

theorem witness_StartBeginsSession : configured.st = .idle ∧ ConfigGood configured := ⟨rfl, configured_good⟩

/-- Each of the four tests of CONFIG_CHECK, one past its limit; and a STATE that is not IDLE. -/
theorem witness_StartConfigErrorOrIgnored :
    State.reset.st = .idle ∧ State.reset.channels.toNat = 0
      ∧ (let s := { configured with par := { Config.defaultParams with maxCh := 0, offtabDepth := 0, chbufDepth := 511 } }
        s.par.maxCh < s.channels.toNat ∧ s.par.offtabDepth < s.numGroups.toNat
          ∧ s.par.chbufDepth < 512 * s.numGroups.toNat)
      ∧ { configured with st := .done }.st ≠ .idle := by decide

theorem witness_ConfigWriteTakesLowBits :
    (hosting [.write 0x18 9] configured).host = .write 0x18 9 :: [] ∧ configured.st ≠ .busy
      ∧ (hosting [.write 4 9] atSeek).host = .write 4 9 :: [] ∧ atSeek.st = .busy := by decide

/-- The last entry of the table, and the first index that is none. -/
theorem witness_OfftabWriteLoadsEntry :
    (hosting [.write (0x1000 + 4 * 4294967294) 9] configured).host = .write (0x1000 + 4 * 4294967294) 9 :: []
      ∧ configured.st ≠ .busy ∧ 4294967294 < configured.par.offtabDepth ∧ configured.par.offtabDepth ≤ 4294967295
      ∧ atSeek.st = .busy := by decide

theorem witness_ReadOnlyWritesIgnored :
    (hosting [.write 0xFFC 9] configured).host = .write 0xFFC 9 :: [] ∧ 0xFFC % 4 = 0 ∧ 0x1C ≤ 0xFFC := by decide

theorem witness_RegisterReads :
    (hosting [.read 0x34] configured).host = .read 0x34 :: [] ∧ 0x34 % 4 = 0 ∧ configured.st ≠ .busy
      ∧ (hosting [.read 0xFFC] configured).host = .read 0xFFC :: [] ∧ 0xFFC % 4 = 0
      ∧ 0x1000 = 0x1000 + 4 * 0 ∧ 0 < configured.par.offtabDepth := by decide

/-- The preamble of a file with one block-group (P1). -/
def smallFileHeader : FileHeader :=
  { channels := 1, bitsPerSample := 16, sampleRate := 44100, numSamples := 512, blocksOffset := 120, dataOffset := 128
    dataSize := 272 }

theorem witness_OffsetTableEnumeration :
    smallFileHeader.blocksOffset.toNat ≤ smallFileHeader.dataOffset.toNat
      ∧ smallFileHeader.dataOffset.toNat - smallFileHeader.blocksOffset.toNat = 4 * (1 + 1)
      ∧ 120 + 4 * 1 ≤ (List.replicate 124 (0 : Byte)).length :=
  ⟨by decide, by decide, List.length_replicate.ge⟩

theorem witness_HostProgramLoadsUnit :
    let s := hosting (programUnit smallFileHeader [0] [1, 2]) { State.reset with st := .error }
    s.st ≠ .busy ∧ s.host = programUnit smallFileHeader [0] [1, 2]
      ∧ ([0] : List (BitVec 32)).length ≤ s.par.offtabDepth := by decide

/-- ERROR left by RESET. -/
theorem witness_OnlyResetLeavesError :
    let s := hosting [.write 0 2] { configured with st := .error }
    s.st = .error ∧ ∃ t, step s = .next t ∧ t.st ≠ .error := ⟨rfl, _, rfl, by decide⟩

theorem witness_StepRunsStreamInstruction :
    let s := atBlock 16 272 deltaHeader
    UnitTurnIn s s ∧ s.st = .busy ∧ s.phase = .block ∧ memRead s.src s.cur.toNat 16 = .ok deltaHeader
      ∧ decodeHeader s.par.blockMagic (headerWord deltaHeader) = .ok (.delta 100 4 0 0) :=
  ⟨(witness_UnitTurnIn _ rfl).1, rfl, rfl, by decide, by decide⟩

theorem witness_StepRunsHostCommand :
    (hosting [.write 0 1] configured).host = .write 0 1 :: [] ∧ decodeCtrl 1 = .ok (.start 0)
      ∧ (0 : BitVec 32).getLsbD 1 = false ∧ (0 : BitVec 32).getLsbD 0 = false := by decide

theorem witness_UnitQuietOutsideBusy : UnitTurnIn configured configured ∧ configured.st ≠ .busy :=
  ⟨(witness_UnitTurnIn _ rfl).1, by decide⟩

theorem witness_ParametersNeverChange : ∃ t, step atSeek = .next t := ⟨_, rfl⟩

/-- A session in its SEEK phase is canonical, in range and consistent. -/
theorem atSeek_canonical : atSeek.Canonical where
  memory := by decide
  inside := by decide
  faults := by decide
  table := by decide
  tableDepth := by decide
  channels := by decide
  channelsNonempty := by decide
  pay := by simp [atSeek, State.reset, State.afterHardwareReset]
  sbuf := by simp [atSeek, State.reset, State.afterHardwareReset]

theorem atSeek_running : atSeek.Running where
  config := by
    refine ⟨by decide, by decide, by decide, ?_⟩
    simp [atSeek, State.reset, State.afterHardwareReset, Config.defaultParams]
  overflow := by decide
  groups := by decide
  channelIdx := by decide
  channelBound := by decide
  lengths := by decide
  checked := by decide
  frames := by decide

theorem atSeek_consistent : atSeek.Consistent := ⟨fun _ => atSeek_running, fun h => absurd rfl h⟩

theorem witness_StepKeepsCanonical : atSeek.Canonical ∧ ∃ t, step atSeek = .next t := ⟨atSeek_canonical, _, rfl⟩

theorem witness_StepKeepsRanges : atSeek.InRange ∧ ∃ t, step atSeek = .next t :=
  ⟨⟨by decide, by decide, by decide, by decide, by decide, by decide, by decide⟩, _, rfl⟩

theorem witness_StepKeepsErrorRegistersClear : atSeek.ErrorsClear ∧ ∃ t, step atSeek = .next t :=
  ⟨fun _ => by decide, _, rfl⟩

theorem witness_StepKeepsSessionConsistent : atSeek.Canonical ∧ atSeek.Consistent ∧ ∃ t, step atSeek = .next t :=
  ⟨atSeek_canonical, atSeek_consistent, _, rfl⟩

theorem witness_StepKeepsCursorBounded : atSeek.CursorBounded ∧ ∃ t, step atSeek = .next t :=
  ⟨⟨by decide, fun _ h => by cases h⟩, _, rfl⟩

theorem witness_UnitNeverStops : atSeek.Canonical ∧ atSeek.Consistent ∧ atSeek.host = [] :=
  ⟨atSeek_canonical, atSeek_consistent, rfl⟩

theorem witness_SessionEnds : atSeek.Canonical ∧ atSeek.Consistent ∧ atSeek.st = .busy ∧ atSeek.host = [] :=
  ⟨atSeek_canonical, atSeek_consistent, rfl, rfl⟩

/-- IDLE with N = 0 and no block-group (V-A13): DONE two steps after START. -/
def emptySession : State := { State.reset with channels := 1 }

theorem emptySession_canonical : emptySession.Canonical where
  memory := by decide
  inside := by decide
  faults := by decide
  table := by decide
  tableDepth := by decide
  channels := by decide
  channelsNonempty := by decide
  pay := by simp [emptySession, State.reset, State.afterHardwareReset]
  sbuf := by simp [emptySession, State.reset, State.afterHardwareReset]

/-- A session that ends in DONE, and one that ends in ERROR. -/
theorem witness_SessionOutputLength :
    (emptySession.Canonical ∧ emptySession.st = .idle ∧ emptySession.host = []
      ∧ ∃ r t, exec (.start 0) emptySession = .next r ∧ Sys2Proof.core.run 2 r = .next t ∧ State.st t = .done)
      ∧ ∃ r t, exec (.start 0) State.reset = .next r ∧ Sys2Proof.core.run 1 r = .next t ∧ State.st t = .error :=
  ⟨⟨emptySession_canonical, rfl, rfl, _, _, rfl, rfl, rfl⟩, _, _, rfl, rfl, rfl⟩

theorem witness_InterleaveOutputFrameMajor :
    atInterleave.st = .busy ∧ atInterleave.phase = .interleave ∧ atInterleave.fIdx = 0 ∧ atInterleave.host = []
      ∧ ∀ c, c < atInterleave.channels.toNat → atInterleave.numSamples.toNat ≤ (channel atInterleave.ch c).length := by
  decide

/-- Two IDLE states that agree on what a session reads, OFFTAB[0] alone of the table, and differ in OFFTAB[1], in the epoch
of the table, in OUT, in the header latch and in CUR. -/
theorem witness_SessionIndependentOfPast :
    let s := { configured with offtab := { epoch := 0, written := [(0, 5)] } }
    let s' := { configured with
      offtab := { epoch := 7, written := [(0, 5), (1, 80)] }
      out := [3], base := 9, cur := 5, unp := { acc := 1, nbits := 1, payPtr := 0, k := 0 } }
    s.st = .idle ∧ s'.st = .idle ∧ s.host = [] ∧ s'.host = [] ∧ s.par = s'.par ∧ s.src = s'.src
      ∧ s.channels = s'.channels ∧ s.bitsPerSample = s'.bitsPerSample ∧ s.numSamples = s'.numSamples
      ∧ s.numGroups = s'.numGroups ∧ s.dataOffset = s'.dataOffset
      ∧ (∀ g, g < s.numGroups.toNat → s.offtab.read g = s'.offtab.read g)
      ∧ ∃ r r' t, exec (.start 0) s = .next r ∧ exec (.start 1) s' = .next r' ∧ r.st = .busy
        ∧ Sys2Proof.core.run 1 r = .next t := by
  refine ⟨rfl, rfl, rfl, rfl, rfl, rfl, rfl, rfl, rfl, rfl, rfl, fun g hg => ?_, _, _, _, rfl, rfl, rfl, rfl⟩
  have h0 : g = 0 := Nat.lt_one_iff.1 hg
  subst h0
  rfl

end Sys2Proof.Tests
end

/-! The parameters (`00_scope.md` R6, R29): no operation of the unit and no host event writes `par`, and so no step
does. -/

namespace Sys2Proof.Machine

@[simp] theorem check_par (s : State) : (check s).par = s.par := by
  unfold check
  split <;> rfl

@[simp] theorem rejectHeader_par (f : HeaderFault) (h : BitVec 128) (s : State) : (rejectHeader f h s).par = s.par := by
  simp only [rejectHeader, raise_par]
  split <;> simp

@[simp] theorem writeReg_par (r : BusReg) (d : BitVec 32) (s : State) : (writeReg r d s).par = s.par := by
  unfold writeReg
  split
  · rfl
  · cases r <;> rfl

@[simp] theorem takeOut_par (s : State) : (takeOut s).par = s.par := by
  unfold takeOut
  split <;> rfl

@[simp] theorem hardwareReset_par (s : State) : (hardwareReset s).par = s.par := rfl

/-- RAW, DELTA and TRUNC keep the parameters, whether they raise or complete. -/
theorem exec_stream_par {i : Instr} (hi : isStreamInstr i = true) {s t : State} (h : exec i s = .next t) :
    t.par = s.par := by
  rcases exec_stream_cases hi s with ⟨_, _, _, -, -, hx⟩ | ⟨-, ⟨_, -, hx⟩ | ⟨_, -, hx⟩⟩ <;>
    obtain rfl : _ = t := Host.Outcome.next.inj (hx.symm.trans h) <;> simp

/-- Every instruction keeps the parameters. -/
theorem exec_par {i : Instr} {s t : State} (h : exec i s = .next t) : t.par = s.par := by
  cases i with
  | raw base flags r => exact exec_stream_par rfl h
  | delta base w flags r => exact exec_stream_par rfl h
  | trunc base w flags r => exact exec_stream_par rfl h
  | start x =>
    rcases exec_start_cases x s with ⟨-, hx⟩ | ⟨-, -, hx⟩ | ⟨-, -, hx⟩ <;>
      obtain rfl : _ = t := Host.Outcome.next.inj (hx.symm.trans h) <;> simp
  | reset b x =>
    rcases exec_reset_cases b x s with ⟨-, hx⟩ | ⟨-, hx⟩ <;>
      obtain rfl : _ = t := Host.Outcome.next.inj (hx.symm.trans h) <;> simp

theorem UnitMove.par_eq {u t : State} (h : UnitMove u t) : t.par = u.par := by
  cases h with
  | runs hdr i hst hp hm hd ht => exact exec_par ht
  | quiet _ ht | seek _ _ ht | fetchRaises _ _ _ _ ht | rejected _ _ _ _ _ _ ht | check _ _ ht | emits _ _ _ _ _ ht
  | ends _ _ _ ht => simp [ht]

theorem HostMove.par_eq {e : HostEvent} {u t : State} (h : HostMove e u t) : t.par = u.par := by
  cases h with
  | command o d i he hr hd ht => exact exec_par ht
  | noOperation _ _ _ _ _ ht | write _ _ _ _ ht | read _ _ ht | take _ ht | present _ _ _ _ ht | store _ _ _ _ _ ht
  | fault _ _ _ _ ht | hardware _ ht => simp [ht]

/-- Settles O48: by the inversion of step, a step is a move of the unit or of the host, and each keeps `par`. -/
theorem parametersNeverChange : Obligations.ParametersNeverChange := by
  intro s t h
  rcases step_cases h with ⟨-, hu⟩ | ⟨es, -, hu⟩ | ⟨e, es, -, -, he⟩
  · exact hu.par_eq
  · exact hu.par_eq
  · exact he.par_eq

end Sys2Proof.Machine

/-! What the decoder answers: only a well-formed instruction of the format it reads. -/

namespace Sys2Proof

theorem widthLegal_iff {w : Nat} : widthLegal w = true ↔ 1 ≤ w ∧ w ≤ 32 := by
  simp only [widthLegal, Bool.and_eq_true, decide_eq_true_eq]
  rfl

theorem decodeMode_ok {h : BitVec 128} {i : Instr} (hf : flagsLegal (headerFlags h) = true)
    (hi : decodeMode h = .ok i) : Machine.isStreamInstr i = true ∧ i.wellFormed = true := by
  have hmax : (Config.wMax : Int) = 32 := rfl
  simp only [decodeMode] at hi
  split at hi
  · cases hi
    exact ⟨rfl, hf⟩
  · split at hi
    · cases hi
    · split at hi <;> cases hi
      · exact ⟨rfl, Bool.and_eq_true_iff.2 ⟨widthLegal_iff.2 (by omega), hf⟩⟩
      · exact ⟨rfl, Bool.and_eq_true_iff.2 ⟨widthLegal_iff.2 (by omega), hf⟩⟩

/-- A header that decodes is a well-formed stream instruction (`30_encoding.md` R81). -/
theorem decodeHeader_ok {magic : BitVec 32} {h : BitVec 128} {i : Instr} (hi : decodeHeader magic h = .ok i) :
    Machine.isStreamInstr i = true ∧ i.wellFormed = true := by
  unfold decodeHeader at hi
  split at hi
  · cases hi
  · split at hi
    · cases hi
    · next h0 =>
      split at hi
      · cases hi
      · next h1 => exact decodeMode_ok (by simp only [flagsLegal, h0, h1]; rfl) hi

/-- A CTRL word that decodes is a host command (`30_encoding.md` R84). -/
theorem decodeCtrl_ok {d : BitVec 32} {i : Instr} (hi : decodeCtrl d = .ok i) :
    (∃ x, i = .start x) ∨ ∃ b x, i = .reset b x := by
  unfold decodeCtrl at hi
  split at hi
  · cases hi
    exact .inr ⟨_, _, rfl⟩
  · split at hi
    · cases hi
      exact .inl ⟨_, rfl⟩
    · cases hi

end Sys2Proof

/-! The effect of a step, the instructions of `UnitMove` and `HostMove` carried out: the invariants below are proved
by one case each. -/

namespace Sys2Proof.Machine

/-- RAW has a legal depth, where the instruction is RAW (`41_block_decode.md` R127). -/
theorem rawDepthLegal_iff {bps : BitVec 16} :
    rawDepthLegal bps = true ↔ bps.toNat = 8 ∨ bps.toNat = 16 ∨ bps.toNat = 24 ∨ bps.toNat = 32 := by
  simp [rawDepthLegal, Config.rawDepths]

theorem delta_width {base : BitVec 32} {w : Nat} {flags : BitVec 16} {r : BitVec 32}
    (hw : (Instr.delta base w flags r).wellFormed = true) : 1 ≤ w ∧ w ≤ 32 :=
  widthLegal_iff.1 (Bool.and_eq_true_iff.1 hw).1

theorem trunc_width {base : BitVec 32} {w : Nat} {flags : BitVec 16} {r : BitVec 32}
    (hw : (Instr.trunc base w flags r).wellFormed = true) : 1 ≤ w ∧ w ≤ 32 :=
  widthLegal_iff.1 (Bool.and_eq_true_iff.1 hw).1

/-- No payload is longer than PAY (`10_state.md` R16, `30_encoding.md` R76). -/
theorem payloadBytes_le {i : Instr} {s : State} (hw : i.wellFormed = true)
    (hd : (∃ base flags r, i = .raw base flags r) → rawDepthLegal s.bitsPerSample = true) :
    payloadBytes i s ≤ 2048 := by
  cases i with
  | raw base flags r =>
    have := rawDepthLegal_iff.1 (hd ⟨_, _, _, rfl⟩)
    simp only [payloadBytes]
    omega
  | delta base w flags r =>
    have := delta_width hw
    simp only [payloadBytes]
    omega
  | trunc base w flags r =>
    have := trunc_width hw
    simp only [payloadBytes]
    omega
  | start x => exact Nat.zero_le _
  | reset b x => exact Nat.zero_le _

theorem streamStart_w_le {i : Instr} {s : State} (hi : isStreamInstr i = true) (hw : i.wellFormed = true) :
    (streamStart i s).w ≤ 32 := by
  cases i with
  | raw base flags r => simp [streamStart]
  | delta base w flags r => simpa [streamStart] using (delta_width hw).2
  | trunc base w flags r => simpa [streamStart] using (trunc_width hw).2
  | start x => simp [isStreamInstr] at hi
  | reset b x => simp [isStreamInstr] at hi

/-- A stream instruction whose payload is `bs`, carried out to the end of BLOCK (`41_block_decode.md` R120). -/
def completeBlock (i : Instr) (bs : List Byte) (u : State) : State :=
  advanceBlock (appendBlock (streamDecode i (loadPayload bs (streamStart i u))))

section CompleteBlock
variable (i : Instr) (bs : List Byte) (u : State)

@[simp] theorem completeBlock_par : (completeBlock i bs u).par = u.par := by simp [completeBlock]
@[simp] theorem completeBlock_src : (completeBlock i bs u).src = u.src := by simp [completeBlock]
@[simp] theorem completeBlock_host : (completeBlock i bs u).host = u.host := by simp [completeBlock]
@[simp] theorem completeBlock_rdata : (completeBlock i bs u).rdata = u.rdata := by simp [completeBlock]
@[simp] theorem completeBlock_channels : (completeBlock i bs u).channels = u.channels := by simp [completeBlock]
@[simp] theorem completeBlock_bitsPerSample : (completeBlock i bs u).bitsPerSample = u.bitsPerSample := by
  simp [completeBlock]
@[simp] theorem completeBlock_numSamples : (completeBlock i bs u).numSamples = u.numSamples := by simp [completeBlock]
@[simp] theorem completeBlock_numGroups : (completeBlock i bs u).numGroups = u.numGroups := by simp [completeBlock]
@[simp] theorem completeBlock_dataOffset : (completeBlock i bs u).dataOffset = u.dataOffset := by simp [completeBlock]
@[simp] theorem completeBlock_offtab : (completeBlock i bs u).offtab = u.offtab := by simp [completeBlock]
@[simp] theorem completeBlock_st : (completeBlock i bs u).st = u.st := by simp [completeBlock]
@[simp] theorem completeBlock_overflow : (completeBlock i bs u).overflow = u.overflow := by simp [completeBlock]
@[simp] theorem completeBlock_fIdx : (completeBlock i bs u).fIdx = u.fIdx := by simp [completeBlock]
@[simp] theorem completeBlock_exc : (completeBlock i bs u).exc = u.exc := by simp [completeBlock]
@[simp] theorem completeBlock_errCode : (completeBlock i bs u).errCode = u.errCode := by simp [completeBlock]
@[simp] theorem completeBlock_errGroup : (completeBlock i bs u).errGroup = u.errGroup := by simp [completeBlock]
@[simp] theorem completeBlock_errChan : (completeBlock i bs u).errChan = u.errChan := by simp [completeBlock]
@[simp] theorem completeBlock_errAddr : (completeBlock i bs u).errAddr = u.errAddr := by simp [completeBlock]
@[simp] theorem completeBlock_out : (completeBlock i bs u).out = u.out := by simp [completeBlock]
@[simp] theorem completeBlock_taken : (completeBlock i bs u).taken = u.taken := by simp [completeBlock]
@[simp] theorem completeBlock_lastTaken : (completeBlock i bs u).lastTaken = u.lastTaken := by simp [completeBlock]
@[simp] theorem completeBlock_fresh : (completeBlock i bs u).fresh = u.fresh := by simp [completeBlock]
@[simp] theorem completeBlock_cIdx : (completeBlock i bs u).cIdx = u.cIdx + 1 := by simp [completeBlock]
@[simp] theorem completeBlock_gIdx :
    (completeBlock i bs u).gIdx = if u.cIdx + 1 < u.channels.toNat then u.gIdx else u.gIdx + 1 := by
  simp [completeBlock, advanceBlock_gIdx]
@[simp] theorem completeBlock_phase :
    (completeBlock i bs u).phase =
      if u.cIdx + 1 < u.channels.toNat then u.phase
      else if u.gIdx + 1 < u.numGroups.toNat then .seek else .check := by
  simp [completeBlock, advanceBlock_phase]
@[simp] theorem completeBlock_base : (completeBlock i bs u).base = (streamStart i u).base := by simp [completeBlock]
@[simp] theorem completeBlock_bits : (completeBlock i bs u).bits = (streamStart i u).bits := by simp [completeBlock]
@[simp] theorem completeBlock_flags : (completeBlock i bs u).flags = (streamStart i u).flags := by simp [completeBlock]
@[simp] theorem completeBlock_mode : (completeBlock i bs u).mode = (streamStart i u).mode := by simp [completeBlock]
@[simp] theorem completeBlock_w : (completeBlock i bs u).w = (streamStart i u).w := by simp [completeBlock]
@[simp] theorem completeBlock_payLen : (completeBlock i bs u).payLen = (streamStart i u).payLen := by
  simp [completeBlock]
@[simp] theorem completeBlock_pay : (completeBlock i bs u).pay = bs ++ u.pay.drop bs.length := by simp [completeBlock]
@[simp] theorem completeBlock_cur :
    (completeBlock i bs u).cur = (streamStart i u).cur + BitVec.ofNat 64 (streamStart i u).payLen := by
  simp [completeBlock]
@[simp] theorem completeBlock_unp :
    (completeBlock i bs u).unp = (streamDecode i (loadPayload bs (streamStart i u))).unp := by simp [completeBlock]
@[simp] theorem completeBlock_prev :
    (completeBlock i bs u).prev = (streamDecode i (loadPayload bs (streamStart i u))).prev := by simp [completeBlock]
@[simp] theorem completeBlock_sbuf :
    (completeBlock i bs u).sbuf = (streamDecode i (loadPayload bs (streamStart i u))).sbuf := by simp [completeBlock]
@[simp] theorem completeBlock_ovf :
    (completeBlock i bs u).ovf = (streamDecode i (loadPayload bs (streamStart i u))).ovf := by simp [completeBlock]
@[simp] theorem completeBlock_ch :
    (completeBlock i bs u).ch =
      appendChannel u.ch u.cIdx (keptSamples (inFinalGroup u) u.par.trimPolicy u.overflow 0
        (streamDecode i (loadPayload bs (streamStart i u))).sbuf) := by
  simp [completeBlock, inFinalGroup]

end CompleteBlock

/-- The state an exception of the unit's turn in `u` is raised in: what of `u` has been written by then. -/
inductive RaisedIn (u : State) : State → Prop where
  | headerUnread : RaisedIn u u
  | headerRead (base : BitVec 32) (bits flags : BitVec 16) (hp : u.phase = .block) :
      RaisedIn u (enterBlock base bits flags u)
  | payloadUnread (i : Instr) (hp : u.phase = .block) (hi : isStreamInstr i = true) (hw : i.wellFormed = true)
      (hn : payloadBytes i u ≤ 2048) : RaisedIn u (streamStart i u)
  | checked (c : Nat) : RaisedIn u { u with cIdx := c }

/-- What the unit's turn can make of `u`. -/
inductive UnitEffect (u t : State) : Prop where
  | quiet (ht : t = u)
  | seeks (hst : u.st = .busy) (hp : u.phase = .seek) (ht : t = seek u)
  | raises (e : Cause) (a : Nat) (v : State) (hst : u.st = .busy) (hv : RaisedIn u v) (ht : t = raise e a v)
  | completes (i : Instr) (bs : List Byte) (hst : u.st = .busy) (hp : u.phase = .block) (hi : isStreamInstr i = true)
      (hw : i.wellFormed = true) (hlen : bs.length = payloadBytes i u) (hn : payloadBytes i u ≤ 2048)
      (ht : t = completeBlock i bs u)
  | passes (c : Nat) (x : Bool) (hst : u.st = .busy) (hp : u.phase = .check) (hc : c ≤ u.cIdx ∨ c < u.channels.toNat)
      (hlong : ∀ d, d < u.channels.toNat → u.numSamples.toNat ≤ (channel u.ch d).length)
      (ht : t = { u with cIdx := c, exc := x, phase := .interleave })
  | emits (vs : List Sample) (hst : u.st = .busy) (hp : u.phase = .interleave) (hf : u.fIdx < u.numSamples.toNat)
      (ht : t = { u with out := u.out ++ vs, fIdx := u.fIdx + 1 })
  | ends (hst : u.st = .busy) (ht : t = finishSession u)

/-- The canonical form of SRC, the part of `State.Canonical` that speaks of it. -/
def Source.Canonical (src : Source) : Prop :=
  Memory.wf src.mem ∧ (∀ c ∈ src.mem, c.1 < src.len.toNat) ∧ src.ioFault.Pairwise (· < ·)

/-- What a host event can make of `u`. -/
inductive HostEffect (u t : State) : Prop where
  | nothing (ht : t = u)
  | configError (ht : t = raise .configError 0 (startClears u))
  | opens (hgood : ConfigGood u) (ht : t = openSession (startClears u))
  | resets (ht : t = softReset u)
  | configures (channels bps : BitVec 16) (n g o : BitVec 32) (hst : u.st ≠ .busy)
      (ht : t = { u with channels := channels, bitsPerSample := bps, numSamples := n, numGroups := g, dataOffset := o })
  | loads (g : Nat) (d : BitVec 32) (hg : g < u.par.offtabDepth) (hst : u.st ≠ .busy)
      (ht : t = { u with offtab := u.offtab.write g d })
  | consumes (v : BitVec 32) (n : Nat) (x : BitVec 32) (ht : t = { u with rdata := v, taken := n, lastTaken := x })
  | source (src : Source) (hst : u.st ≠ .busy) (hsrc : u.src.Canonical → src.Canonical) (ht : t = { u with src := src })
  | hardware (ht : t = hardwareReset u)

theorem rejectHeader_eq_raise (f : HeaderFault) (h : BitVec 128) (s : State) :
    ∃ base bits flags, rejectHeader f h s = raise (HeaderFault.cause f) s.cur.toNat (enterBlock base bits flags s) := by
  unfold rejectHeader
  by_cases hf : f = .invalidBlockSignature
  · exact ⟨s.base, s.bits, s.flags, by simp only [if_pos hf]; rfl⟩
  · exact ⟨headerBase h, headerBits h, headerFlags h, by simp only [if_neg hf]; rfl⟩

/-- All CHECK can come to (`42_assembler.md` R159). -/
theorem check_cases (s : State) :
    (∃ c, c < s.channels.toNat ∧ (channel s.ch c).length < s.numSamples.toNat ∧
      (∀ d, d < c → s.numSamples.toNat ≤ (channel s.ch d).length) ∧
      check s = raise .lengthShort s.cur.toNat { s with cIdx := c }) ∨
    ((∀ d, d < s.channels.toNat → s.numSamples.toNat ≤ (channel s.ch d).length) ∧
      check s =
        { s with
          cIdx := if s.channels = 0 then s.cIdx else s.channels.toNat - 1
          exc := s.exc || someChannelExceeds s.ch s.numSamples.toNat s.channels.toNat
          phase := .interleave }) := by
  unfold check
  rcases hc : firstShortChannel s.ch s.numSamples.toNat s.channels.toNat with _ | c
  · exact .inr ⟨firstShortChannel_none.1 hc, rfl⟩
  · obtain ⟨hlt, hshort, hmin⟩ := firstShortChannel_some.1 hc
    exact .inl ⟨c, hlt, hshort, hmin, rfl⟩

theorem configBad_eq_false_iff {s : State} : configBad s = false ↔ ConfigGood s := by
  have h0 : s.channels = 0 ↔ s.channels.toNat = 0 := by rw [← BitVec.toNat_inj]; rfl
  simp only [configBad, ConfigGood, Bool.or_eq_false_iff, decide_eq_false_iff_not, Nat.not_lt, h0, and_assoc, ne_eq]
  rfl

/-- A write other than to CTRL changes one configuration register or one OFFTAB entry, or nothing. -/
theorem writeReg_effect {depth o : Nat} {d : BitVec 32} {u : State} (hdepth : depth = u.par.offtabDepth) :
    HostEffect u (writeReg (busReg depth o) d u) := by
  by_cases hst : u.st = .busy
  · exact .nothing (by simp [writeReg, hst])
  · rcases hr : busReg depth o <;> simp only [writeReg, if_neg hst]
    case channels => exact .configures (d.setWidth 16) u.bitsPerSample u.numSamples u.numGroups u.dataOffset hst rfl
    case bitsPerSample => exact .configures u.channels (d.setWidth 16) u.numSamples u.numGroups u.dataOffset hst rfl
    case numSamples => exact .configures u.channels u.bitsPerSample d u.numGroups u.dataOffset hst rfl
    case numGroups => exact .configures u.channels u.bitsPerSample u.numSamples d u.dataOffset hst rfl
    case dataOffset => exact .configures u.channels u.bitsPerSample u.numSamples u.numGroups d hst rfl
    case offtab g => exact .loads g d (hdepth ▸ busReg_offtab_lt hr) hst rfl
    all_goals exact .nothing rfl

theorem takeOut_effect (u : State) : HostEffect u (takeOut u) := by
  unfold takeOut
  split
  · exact .consumes u.rdata _ _ rfl
  · exact .nothing rfl

/-- The host's commands START and RESET (`43_host_commands.md` R183, R185). -/
theorem command_effect {d : BitVec 32} {i : Instr} {u t : State} (hd : decodeCtrl d = .ok i) (ht : exec i u = .next t) :
    HostEffect u t := by
  rcases decodeCtrl_ok hd with ⟨x, rfl⟩ | ⟨b, x, rfl⟩
  · rcases exec_start_cases x u with ⟨-, hx⟩ | ⟨-, -, hx⟩ | ⟨-, hgood, hx⟩ <;>
      have ht := (Host.Outcome.next.inj (hx.symm.trans ht)).symm
    · exact .nothing ht
    · exact .configError ht
    · exact .opens (configBad_eq_false_iff.1 hgood) ht
  · rcases exec_reset_cases b x u with ⟨-, hx⟩ | ⟨-, hx⟩ <;>
      have ht := (Host.Outcome.next.inj (hx.symm.trans ht)).symm
    · exact .nothing ht
    · exact .resets ht

theorem Source.ofBytes_canonical {bytes : List Byte} (hlen : bytes.length < 2 ^ 64) :
    Source.Canonical { mem := Memory.ofBytes 0 bytes, len := BitVec.ofNat 64 bytes.length, ioFault := [] } := by
  refine ⟨Memory.ofBytes_wf 0 bytes, fun c hc => ?_, List.Pairwise.nil⟩
  obtain ⟨-, hlt, -⟩ := Memory.mem_ofBytes hc
  rw [BitVec.toNat_ofNat, Nat.mod_eq_of_lt hlen]
  omega

theorem Source.write_canonical {src : Source} {a : Nat} {b : Byte} (ha : a < src.len.toNat) (h : src.Canonical) :
    Source.Canonical { src with mem := Memory.write src.mem a b } := by
  obtain ⟨hwf, hin, hfaults⟩ := h
  refine ⟨Memory.write_wf hwf a b, fun c hc => ?_, hfaults⟩
  rcases Memory.mem_write hc with rfl | hc
  · exact ha
  · exact hin c hc

theorem Source.setFaultAt_canonical {src : Source} (a : Nat) (y : Bool) (h : src.Canonical) :
    Source.Canonical { src with ioFault := setFaultAt src.ioFault a y } := by
  obtain ⟨hwf, hin, hfaults⟩ := h
  exact ⟨hwf, hin, setFaultAt_rising hfaults a y⟩

theorem HostMove.effect {e : HostEvent} {u t : State} (h : HostMove e u t) : HostEffect u t := by
  cases h with
  | command o d i he hr hd ht => exact command_effect hd ht
  | noOperation o d he hr hd ht => exact .nothing ht
  | write o d he hr ht => exact ht ▸ writeReg_effect rfl
  | read o he ht => exact .consumes _ u.taken u.lastTaken ht
  | take he ht => exact ht ▸ takeOut_effect u
  | present bytes he hst hlen ht => exact .source _ hst (fun _ => Source.ofBytes_canonical hlen) ht
  | store a b he hst ha ht => exact .source _ hst (Source.write_canonical ha) ht
  | fault a y he hst ht => exact .source _ hst (Source.setFaultAt_canonical a y) ht
  | hardware he ht => exact .hardware ht

/-- A stream instruction the decoder gave, in the BLOCK phase (`41_block_decode.md` R120). -/
theorem exec_stream_effect {i : Instr} {u t : State} (hi : isStreamInstr i = true) (hw : i.wellFormed = true)
    (hst : u.st = .busy) (hp : u.phase = .block) (ht : exec i u = .next t) : UnitEffect u t := by
  rcases exec_stream_cases hi u with ⟨base, flags, r, -, -, hx⟩ | ⟨hd, ⟨e, -, hx⟩ | ⟨bs, hm, hx⟩⟩ <;>
    have ht := (Host.Outcome.next.inj (hx.symm.trans ht)).symm
  · exact .raises _ _ _ hst (.headerRead base 0 flags hp) ht
  · exact .raises _ _ _ hst (.payloadUnread i hp hi hw (payloadBytes_le hw hd)) ht
  · obtain ⟨-, rfl⟩ := memRead_ok hm
    have hlen := Memory.readRange_length u.src.mem (streamStart i u).cur.toNat (streamStart i u).payLen
    exact .completes i _ hst hp hi hw (hlen.trans (streamStart_payLen hi u)) (payloadBytes_le hw hd) ht

theorem UnitMove.effect {u t : State} (h : UnitMove u t) : UnitEffect u t := by
  cases h with
  | quiet hst ht => exact .quiet ht
  | seek hst hp ht => exact .seeks hst hp ht
  | fetchRaises e hst hp hm ht => exact .raises _ _ _ hst .headerUnread ht
  | rejected hdr f hst hp hm hd ht =>
    obtain ⟨base, bits, flags, hr⟩ := rejectHeader_eq_raise f (headerWord hdr) u
    exact .raises _ _ _ hst (.headerRead base bits flags hp) (ht.trans hr)
  | runs hdr i hst hp hm hd ht =>
    obtain ⟨hi, hw⟩ := decodeHeader_ok hd
    exact exec_stream_effect hi hw hst hp ht
  | check hst hp ht =>
    rcases check_cases u with ⟨c, -, -, -, hc⟩ | ⟨hlong, hc⟩
    · exact .raises _ _ _ hst (.checked c) (ht.trans hc)
    · refine .passes _ _ hst hp ?_ hlong (ht.trans hc)
      split
      · exact .inl (le_refl _)
      · next h0 =>
        have : u.channels.toNat ≠ 0 := fun h => h0 (by simpa [← BitVec.toNat_inj] using h)
        exact .inr (by omega)
  | emits vs hst hp hf hv ht => exact .emits vs hst hp hf ht
  | ends hst hp hf ht => exact .ends hst ht

/-- An invariant that does not speak of the pending events, and that the unit's turn and every host event keep, is
kept by every step. -/
theorem step_keeps {P : State → Prop} (hpending : ∀ s es, P s → P { s with host := es })
    (hunit : ∀ u t, P u → UnitEffect u t → P t) (hevent : ∀ u t, P u → HostEffect u t → P t) {s t : State} (hs : P s)
    (h : step s = .next t) : P t := by
  rcases step_cases h with ⟨-, hu⟩ | ⟨es, -, hu⟩ | ⟨e, es, -, -, he⟩
  · exact hunit s t hs hu.effect
  · exact hunit _ t (hpending s es hs) hu.effect
  · exact hevent _ t (hpending s es hs) he.effect

end Sys2Proof.Machine

/-! The unpacker (`40_unpacker.md` R102 to R107) as arithmetic on one number: the accumulator with the bytes still to
be fed above it. FEED leaves that number as it is, EXTRACT divides it by 2^w. -/

namespace Sys2Proof.Machine

theorem leNat_append (p q : List Byte) : leNat (p ++ q) = leNat p + 2 ^ (8 * p.length) * leNat q := by
  induction p with
  | nil => simp [leNat]
  | cons b p ih =>
    simp only [List.cons_append, leNat, ih, List.length_cons, Nat.mul_add, Nat.pow_add]
    ring

/-- FEED puts the byte above the valid bits of ACC (R102). -/
theorem feed_acc {b : Byte} {u : Unpacker} (hn : u.nbits ≤ 31) (hacc : u.acc.toNat < 2 ^ u.nbits) :
    (feed b u).acc.toNat = u.acc.toNat + b.toNat * 2 ^ u.nbits := by
  have hfit : b.toNat * 2 ^ u.nbits < 2 ^ 40 := calc
    b.toNat * 2 ^ u.nbits < 2 ^ 8 * 2 ^ u.nbits := Nat.mul_lt_mul_of_pos_right b.isLt (Nat.two_pow_pos _)
    _ = 2 ^ (8 + u.nbits) := (Nat.pow_add ..).symm
    _ ≤ 2 ^ 40 := Nat.pow_le_pow_right (by decide) (by omega)
  have hb : b.toNat % 2 ^ 40 = b.toNat := Nat.mod_eq_of_lt (by have := b.isLt; omega)
  simp only [feed, BitVec.toNat_or, BitVec.toNat_shiftLeft, BitVec.toNat_setWidth, hb, Nat.shiftLeft_eq,
    Nat.mod_eq_of_lt hfit]
  rw [Nat.lor_comm, Nat.mul_comm, ← Nat.two_pow_add_eq_or_of_lt hacc, Nat.add_comm]

/-- EXTRACT takes the low w bits of ACC (R103). -/
theorem extractField_eq {w : Nat} (u : Unpacker) (hw : w ≤ 32) : extractField w u = u.acc.toNat % 2 ^ w := by
  have hlt : 2 ^ w < 2 ^ 40 := Nat.pow_lt_pow_right (by decide) (by omega)
  have hpos := Nat.two_pow_pos w
  have hmask : ((1#40 <<< w) - 1#40).toNat = 2 ^ w - 1 := by
    simp only [BitVec.toNat_sub, BitVec.toNat_shiftLeft, BitVec.toNat_ofNat, Nat.shiftLeft_eq]
    omega
  rw [extractField, BitVec.toNat_and, hmask, Nat.and_two_pow_sub_one_eq_mod]

/-- EXTRACT shifts the low w bits out of ACC (R103). -/
theorem extractRest_acc (w : Nat) (u : Unpacker) : (extractRest w u).acc.toNat = u.acc.toNat / 2 ^ w := by
  simp [extractRest, Nat.shiftRight_eq_div_pow]

/-- The bits not yet extracted, when `bs` are the payload bytes from PAYPTR on, as one number. -/
def Unpacker.pending (u : Unpacker) (bs : List Byte) : Nat := u.acc.toNat + 2 ^ u.nbits * leNat bs

theorem pending_start (bs : List Byte) : Unpacker.start.pending bs = leNat bs := by
  simp [Unpacker.pending, Unpacker.start]

theorem pending_feed {b : Byte} {bs : List Byte} {u : Unpacker} (hn : u.nbits ≤ 31) (hacc : u.acc.toNat < 2 ^ u.nbits) :
    (feed b u).pending bs = u.pending (b :: bs) := by
  have hnb : (feed b u).nbits = u.nbits + 8 := rfl
  simp only [Unpacker.pending, feed_acc hn hacc, hnb, leNat, Nat.pow_add]
  ring

theorem feed_acc_lt {b : Byte} {u : Unpacker} (hn : u.nbits ≤ 31) (hacc : u.acc.toNat < 2 ^ u.nbits) :
    (feed b u).acc.toNat < 2 ^ (feed b u).nbits := by
  have hb : b.toNat + 1 ≤ 2 ^ 8 := b.isLt
  have hnb : (feed b u).nbits = 8 + u.nbits := Nat.add_comm ..
  rw [feed_acc hn hacc, hnb, Nat.pow_add]
  calc u.acc.toNat + b.toNat * 2 ^ u.nbits < (b.toNat + 1) * 2 ^ u.nbits := by rw [Nat.add_mul]; omega
    _ ≤ 2 ^ 8 * 2 ^ u.nbits := Nat.mul_le_mul_right _ hb

/-- With w valid bits, EXTRACT takes the low w bits of the pending number. -/
theorem extractField_pending {w : Nat} {u : Unpacker} (bs : List Byte) (hw : w ≤ 32) (hn : w ≤ u.nbits) :
    extractField w u = u.pending bs % 2 ^ w := by
  rw [extractField_eq u hw, Unpacker.pending, ← Nat.add_sub_cancel' hn, Nat.pow_add, Nat.mul_assoc,
    Nat.add_mul_mod_self_left]

theorem pending_extractRest {w : Nat} {u : Unpacker} (bs : List Byte) (hn : w ≤ u.nbits) :
    (extractRest w u).pending bs = u.pending bs / 2 ^ w := by
  have hnb : (extractRest w u).nbits = u.nbits - w := rfl
  rw [Unpacker.pending, Unpacker.pending, extractRest_acc, hnb]
  conv_rhs => rw [← Nat.add_sub_cancel' hn, Nat.pow_add, Nat.mul_assoc, Nat.add_mul_div_left _ _ (Nat.two_pow_pos w)]

theorem extractRest_acc_lt {w : Nat} {u : Unpacker} (hn : w ≤ u.nbits) (hacc : u.acc.toNat < 2 ^ u.nbits) :
    (extractRest w u).acc.toNat < 2 ^ (extractRest w u).nbits := by
  rw [extractRest_acc, Nat.div_lt_iff_lt_mul (Nat.two_pow_pos w), ← Nat.pow_add]
  exact hacc.trans_eq (congrArg _ (Nat.sub_add_cancel hn).symm)

/-- What `while NBITS < w: FEED` (R105) leaves, `bs'` being the bytes not fed: w valid bits and less than 8 more, the
pending number as it was. -/
structure FedTo (w : Nat) (u : Unpacker) (bs : List Byte) (u' : Unpacker) (bs' : List Byte) : Prop where
  enough : w ≤ u'.nbits
  few : u'.nbits < w + 8
  acc : u'.acc.toNat < 2 ^ u'.nbits
  pending : u'.pending bs' = u.pending bs
  bits : u'.nbits + 8 * bs'.length = u.nbits + 8 * bs.length
  ptr : u'.payPtr + bs'.length = u.payPtr + bs.length
  k : u'.k = u.k

theorem feedUntil_fedTo {w : Nat} {bs : List Byte} {u : Unpacker} (hw : w ≤ 32) (hn : u.nbits < w + 8)
    (hacc : u.acc.toNat < 2 ^ u.nbits) (hbits : w ≤ u.nbits + 8 * bs.length) :
    FedTo w u bs (feedUntil w bs u).1 (feedUntil w bs u).2 := by
  induction bs generalizing u with
  | nil => exact ⟨by simpa [feedUntil] using hbits, hn, hacc, rfl, rfl, rfl, rfl⟩
  | cons b bs ih =>
    rw [feedUntil]
    split
    · next hlt =>
      have hnb : (feed b u).nbits = u.nbits + 8 := rfl
      have hptr : (feed b u).payPtr = u.payPtr + 1 := rfl
      rw [List.length_cons] at hbits
      have h := ih (u := feed b u) (by omega) (feed_acc_lt (by omega) hacc) (by omega)
      exact ⟨h.enough, h.few, h.acc, h.pending.trans (pending_feed (by omega) hacc),
        by rw [h.bits, List.length_cons]; omega, by rw [h.ptr, List.length_cons]; omega, h.k⟩
    · next hge => exact ⟨Nat.le_of_not_lt hge, hn, hacc, rfl, rfl, rfl, rfl⟩

/-- The loop of R105 from any point of it: field i of the pending number is extracted i-th. -/
theorem unpackLoop_samples {w n : Nat} {bs : List Byte} {u : Unpacker} (hw : w ≤ 32) (hn : u.nbits < 8)
    (hacc : u.acc.toNat < 2 ^ u.nbits) (hbits : n * w ≤ u.nbits + 8 * bs.length) :
    (unpackLoop w n bs u).2 = (List.range n).map fun i => sext32 ((u.pending bs >>> (i * w)) % 2 ^ w) w := by
  induction n generalizing bs u with
  | zero => rfl
  | succ n ih =>
    rw [Nat.succ_mul] at hbits
    have hfed := feedUntil_fedTo hw (bs := bs) (by omega) hacc (by omega)
    rw [unpackLoop, List.range_succ_eq_map, List.map_cons, List.map_map]
    generalize feedUntil w bs u = fed at hfed
    obtain ⟨u', bs'⟩ := fed
    obtain ⟨henough, hfew, hfedAcc, hpending, hsum, -, -⟩ : FedTo w u bs u' bs' := hfed
    have hnb : (extractRest w u').nbits = u'.nbits - w := rfl
    rw [ih (by omega) (extractRest_acc_lt henough hfedAcc) (by simp only; omega), pending_extractRest _ henough,
      extractField_pending bs' hw henough, hpending]
    simp only [Nat.zero_mul, Nat.shiftRight_zero, List.cons.injEq, true_and]
    refine List.map_congr_left fun i _ => ?_
    simp only [Function.comp, Nat.succ_eq_add_one, Nat.shiftRight_eq_div_pow, Nat.div_div_eq_div_mul, ← Nat.pow_add]
    rw [Nat.succ_mul, Nat.add_comm w]

/-- The counts of the loop of R105 from any point of it (R107): the bits fed are the bits extracted and those left in
ACC, fewer than 8. -/
theorem unpackLoop_counts {w n : Nat} {bs : List Byte} {u : Unpacker} (hw : w ≤ 32) (hn : u.nbits < 8)
    (hacc : u.acc.toNat < 2 ^ u.nbits) (hbits : n * w ≤ u.nbits + 8 * bs.length) :
    (unpackLoop w n bs u).1.nbits < 8 ∧
      (unpackLoop w n bs u).1.acc.toNat < 2 ^ (unpackLoop w n bs u).1.nbits ∧
      (unpackLoop w n bs u).1.nbits + n * w + 8 * u.payPtr = u.nbits + 8 * (unpackLoop w n bs u).1.payPtr ∧
      (unpackLoop w n bs u).1.k = u.k + n := by
  induction n generalizing bs u with
  | zero => exact ⟨hn, hacc, by simp [unpackLoop], rfl⟩
  | succ n ih =>
    rw [Nat.succ_mul] at hbits ⊢
    have hfed := feedUntil_fedTo hw (bs := bs) (by omega) hacc (by omega)
    rw [unpackLoop]
    generalize feedUntil w bs u = fed at hfed
    obtain ⟨u', bs'⟩ := fed
    obtain ⟨henough, hfew, hfedAcc, -, hsum, hptr, hk⟩ : FedTo w u bs u' bs' := hfed
    have hnb : (extractRest w u').nbits = u'.nbits - w := rfl
    have hptr' : (extractRest w u').payPtr = u'.payPtr := rfl
    have hk' : (extractRest w u').k = u'.k + 1 := rfl
    obtain ⟨h1, h2, h3, h4⟩ := ih (bs := bs') (by omega) (extractRest_acc_lt henough hfedAcc) (by omega)
    exact ⟨h1, h2, by simp only; omega, by simp only; omega⟩

/-- A field of a payload lies in its bytes alone: what stands behind them does not matter (R106). -/
theorem packedField_append {p : List Byte} (q : List Byte) {w k : Nat} (h : k * w + w ≤ 8 * p.length) :
    packedField (p ++ q) w k = packedField p w k := by
  simp only [packedField, leNat_append, Nat.shiftRight_eq_div_pow]
  rw [show 8 * p.length = k * w + (w + (8 * p.length - (k * w + w))) by omega, Nat.pow_add, Nat.pow_add, Nat.mul_assoc,
    Nat.add_mul_div_left _ _ (Nat.two_pow_pos _), Nat.mul_assoc, Nat.add_mul_mod_self_left]

section Unpack
variable {w : Nat} {pay : List Byte} (hw : w ≤ 32) (hlen : 64 * w ≤ pay.length)
include hw hlen

/-- UNPACK yields the closed form of R106. -/
theorem unpack_samples : (unpack w pay).2 = (List.range 512).map (packedValue pay w) := by
  rw [unpack, unpackLoop_samples hw (by decide) (by decide) (by simp only [Config.cap, Unpacker.start]; omega),
    pending_start]
  rfl

/-- UNPACK consumes its payload exactly (R107 (e)). -/
theorem unpack_exit :
    (unpack w pay).1 = { acc := 0, nbits := 0, payPtr := 64 * w, k := 512 } := by
  obtain ⟨hn, hacc, hbits, hk⟩ := unpackLoop_counts (n := Config.cap) (bs := pay) (u := Unpacker.start) hw (by decide)
    (by decide) (by simp only [Config.cap, Unpacker.start]; omega)
  rw [← unpack] at hn hacc hbits hk
  generalize (unpack w pay).1 = u at hn hacc hbits hk ⊢
  obtain ⟨acc, nbits, payPtr, k⟩ := u
  simp only [Config.cap, Unpacker.start, Nat.zero_add, Nat.mul_zero, Nat.add_zero] at hn hacc hbits hk
  obtain rfl : nbits = 0 := by omega
  have hacc0 : acc = 0 := BitVec.eq_of_toNat_eq (Nat.lt_one_iff.1 hacc)
  simp only [hacc0, hk, Unpacker.mk.injEq, and_true, true_and]
  omega

end Unpack

end Sys2Proof.Machine

/-! Canonical form (`20_memory.md` R41, R44, `10_state.md` R12, R16, R19, R20). -/

namespace Sys2Proof.Machine

/-- The canonical form of CH, the part of `State.Canonical` that speaks of it. -/
def ChannelBuffers.Canonical (ch : ChannelBuffers) : Prop :=
  ch.Pairwise (fun a b => a.1 < b.1) ∧ ∀ e ∈ ch, e.2 ≠ []

theorem ChannelBuffers.nil_canonical : ChannelBuffers.Canonical [] := ⟨List.Pairwise.nil, by simp⟩

theorem ChannelBuffers.append_canonical {ch : ChannelBuffers} (h : ch.Canonical) (c : Nat) (vs : List Sample) :
    ChannelBuffers.Canonical (appendChannel ch c vs) :=
  ⟨appendChannel_rising h.1 c vs, appendChannel_nonempty h.2 c vs⟩

namespace State.Canonical
variable {s t : State}

theorem source (h : s.Canonical) : s.src.Canonical := ⟨h.memory, h.inside, h.faults⟩

theorem buffers (h : s.Canonical) : ChannelBuffers.Canonical s.ch := ⟨h.channels, h.channelsNonempty⟩

/-- A state that keeps SRC and OFFTAB is canonical when its three buffers are. -/
theorem of_buffers (h : s.Canonical) (hpar : t.par = s.par) (hsrc : t.src = s.src) (htab : t.offtab = s.offtab)
    (hch : ChannelBuffers.Canonical t.ch) (hpay : t.pay.length = Config.payBytes) (hsbuf : t.sbuf.length = Config.cap) :
    t.Canonical where
  memory := hsrc ▸ h.memory
  inside := hsrc ▸ h.inside
  faults := hsrc ▸ h.faults
  table := htab ▸ h.table
  tableDepth := by rw [htab, hpar]; exact h.tableDepth
  channels := hch.1
  channelsNonempty := hch.2
  pay := hpay
  sbuf := hsbuf

/-- A state that differs in no field with a canonical form is canonical. -/
theorem congr (h : s.Canonical) (hpar : t.par = s.par) (hsrc : t.src = s.src) (htab : t.offtab = s.offtab)
    (hch : t.ch = s.ch) (hpay : t.pay = s.pay) (hsbuf : t.sbuf = s.sbuf) : t.Canonical :=
  h.of_buffers hpar hsrc htab (hch ▸ h.buffers) (hpay ▸ h.pay) (hsbuf ▸ h.sbuf)

/-- Clearing CH keeps the canonical form. -/
theorem clear (h : s.Canonical) (hpar : t.par = s.par) (hsrc : t.src = s.src) (htab : t.offtab = s.offtab)
    (hch : t.ch = []) (hpay : t.pay = s.pay) (hsbuf : t.sbuf = s.sbuf) : t.Canonical :=
  h.of_buffers hpar hsrc htab (hch ▸ ChannelBuffers.nil_canonical) (hpay ▸ h.pay) (hsbuf ▸ h.sbuf)

theorem raise {e : Cause} {a : Nat} {v : State} (h : s.Canonical) (hv : RaisedIn s v) :
    (Machine.raise e a v).Canonical := by
  cases hv <;> exact h.clear (by simp) (by simp) (by simp) (by simp) (by simp) (by simp)

theorem completeBlock {i : Instr} {bs : List Byte} (h : s.Canonical) (hi : isStreamInstr i = true)
    (hbs : bs.length ≤ 2048) : (completeBlock i bs s).Canonical := by
  have hpay := h.pay
  refine h.of_buffers (by simp) (by simp) (by simp) ?_ ?_ (by simp [streamDecode_full hi, Config.cap])
  · simpa using ChannelBuffers.append_canonical h.buffers _ _
  · simp only [completeBlock_pay, List.length_append, List.length_drop, hpay, Config.payBytes]
    omega

theorem unitEffect (h : s.Canonical) (hu : UnitEffect s t) : t.Canonical := by
  cases hu with
  | quiet ht => exact ht ▸ h
  | seeks hst hp ht => subst ht; exact h.congr rfl rfl rfl rfl rfl rfl
  | raises e a v hst hv ht => exact ht ▸ h.raise hv
  | completes i bs hst hp hi hw hlen hn ht => exact ht ▸ h.completeBlock hi (hlen.trans_le hn)
  | passes c x hst hp hc hlong ht => subst ht; exact h.congr rfl rfl rfl rfl rfl rfl
  | emits vs hst hp hf ht => subst ht; exact h.congr rfl rfl rfl rfl rfl rfl
  | ends hst ht => subst ht; exact h.clear rfl rfl rfl rfl rfl rfl

/-- The column "after hardware reset" of R28 is canonical when its source is. -/
theorem afterHardwareReset {par : Params} {src : Source} (hsrc : src.Canonical) (host : List HostEvent)
    (rdata lastTaken : BitVec 32) (n : Nat) :
    (State.afterHardwareReset par src host rdata lastTaken n).Canonical where
  memory := hsrc.1
  inside := hsrc.2.1
  faults := hsrc.2.2
  table := List.Pairwise.nil
  tableDepth := by simp [State.afterHardwareReset]
  channels := List.Pairwise.nil
  channelsNonempty := by simp [State.afterHardwareReset]
  pay := by simp [State.afterHardwareReset]
  sbuf := by simp [State.afterHardwareReset]

theorem hostEffect (h : s.Canonical) (he : HostEffect s t) : t.Canonical := by
  cases he with
  | nothing ht => exact ht ▸ h
  | configError ht => subst ht; exact h.clear rfl rfl rfl rfl rfl rfl
  | opens hgood ht => subst ht; exact h.clear rfl rfl rfl rfl rfl rfl
  | resets ht =>
    subst ht
    exact h.of_buffers (by simp) (by simp) (by simp) (by simpa using ChannelBuffers.nil_canonical) (by simp) (by simp)
  | configures channels bps n g o hst ht => subst ht; exact h.congr rfl rfl rfl rfl rfl rfl
  | loads g d hg hst ht =>
    subst ht
    refine { h with table := insertEntry_rising h.table g d, tableDepth := fun e he => ?_ }
    rcases mem_insertEntry he with rfl | he
    · exact hg
    · exact h.tableDepth e he
  | consumes v n x ht => subst ht; exact h.congr rfl rfl rfl rfl rfl rfl
  | source src hst hsrc ht =>
    subst ht
    obtain ⟨hwf, hin, hfaults⟩ := hsrc h.source
    exact { h with memory := hwf, inside := hin, faults := hfaults }
  | hardware ht => exact ht ▸ afterHardwareReset h.source s.host s.rdata s.lastTaken s.fresh

end State.Canonical

/-- Settles O49: the effect of a step writes SRC, OFFTAB and CH only through operations that keep their canonical form,
and PAY and S only whole. -/
theorem stepKeepsCanonical : Obligations.StepKeepsCanonical := fun _ _ hs =>
  step_keeps (fun _ _ h => h.congr rfl rfl rfl rfl rfl rfl) (fun _ _ => State.Canonical.unitEffect)
    (fun _ _ => State.Canonical.hostEffect) hs

/-! Ranges of the hidden counts (`10_state.md` R15 to R17, R21). -/

/-- The ranges of the unpacker's registers, the part of `State.InRange` that speaks of them (R17). -/
structure Unpacker.InRange (u : Unpacker) : Prop where
  nbits : u.nbits ≤ 39
  acc : u.acc.toNat < 2 ^ u.nbits
  payPtr : u.payPtr ≤ 2048
  k : u.k ≤ 512

theorem Unpacker.zero_inRange : Unpacker.InRange ⟨0, 0, 0, 0⟩ :=
  ⟨Nat.zero_le _, Nat.one_pos, Nat.zero_le _, Nat.zero_le _⟩

theorem unpack_inRange {w : Nat} {pay : List Byte} (hw : w ≤ 32) (hlen : 64 * w ≤ pay.length) :
    (unpack w pay).1.InRange := by
  rw [unpack_exit hw hlen]
  exact ⟨Nat.zero_le _, Nat.one_pos, by simp only; omega, le_refl _⟩

/-- A block leaves the unpacker as it was (RAW) or at its exit (R107 (e)). -/
theorem streamDecode_unp_inRange {i : Instr} {s : State} {bs : List Byte} (hi : isStreamInstr i = true)
    (hw : i.wellFormed = true) (hlen : bs.length = payloadBytes i s) (hs : s.unp.InRange) :
    (streamDecode i (loadPayload bs (streamStart i s))).unp.InRange := by
  cases i with
  | raw base flags r => simpa [streamDecode] using hs
  | delta base w flags r =>
    have hlen : bs.length = 64 * w := hlen
    simpa [streamDecode, streamStart] using unpack_inRange (delta_width hw).2 (by simp [hlen])
  | trunc base w flags r =>
    have hlen : bs.length = 64 * w := hlen
    simpa [streamDecode, streamStart] using unpack_inRange (trunc_width hw).2 (by simp [hlen])
  | start x => simp [isStreamInstr] at hi
  | reset b x => simp [isStreamInstr] at hi

namespace State.InRange
variable {s t : State}

theorem unpacker (h : s.InRange) : s.unp.InRange := ⟨h.nbits, h.acc, h.payPtr, h.k⟩

theorem of_parts (hw : t.w ≤ 32) (hlen : t.payLen ≤ 2048) (hunp : t.unp.InRange) (ho : t.overflow ≤ 511) : t.InRange :=
  ⟨hw, hlen, hunp.nbits, hunp.acc, hunp.payPtr, hunp.k, ho⟩

/-- A state that differs in none of the counts is in range. -/
theorem congr (h : s.InRange) (hw : t.w = s.w) (hlen : t.payLen = s.payLen) (hunp : t.unp = s.unp)
    (ho : t.overflow = s.overflow) : t.InRange :=
  of_parts (hw ▸ h.w) (hlen ▸ h.payLen) (hunp ▸ h.unpacker) (ho ▸ h.overflow)

theorem raise {e : Cause} {a : Nat} {v : State} (h : s.InRange) (hv : RaisedIn s v) :
    (Machine.raise e a v).InRange := by
  cases hv with
  | headerUnread => exact h.congr rfl rfl rfl rfl
  | headerRead base bits flags hp => exact h.congr (by simp) (by simp) (by simp) (by simp)
  | payloadUnread i hp hi hw hn =>
    exact of_parts (streamStart_w_le hi hw) ((streamStart_payLen hi s).trans_le hn) (by simpa using h.unpacker)
      (by simpa using h.overflow)
  | checked c => exact h.congr rfl rfl rfl rfl

theorem unitEffect (h : s.InRange) (hu : UnitEffect s t) : t.InRange := by
  cases hu with
  | quiet ht => exact ht ▸ h
  | seeks hst hp ht => subst ht; exact h.congr rfl rfl rfl rfl
  | raises e a v hst hv ht => exact ht ▸ h.raise hv
  | completes i bs hst hp hi hw hlen hn ht =>
    subst ht
    exact of_parts (by simpa using streamStart_w_le hi hw) (by simpa [streamStart_payLen hi] using hn)
      (by simpa using streamDecode_unp_inRange hi hw hlen h.unpacker) (by simpa using h.overflow)
  | passes c x hst hp hc hlong ht => subst ht; exact h.congr rfl rfl rfl rfl
  | emits vs hst hp hf ht => subst ht; exact h.congr rfl rfl rfl rfl
  | ends hst ht => subst ht; exact h.congr rfl rfl rfl rfl

theorem afterHardwareReset (par : Params) (src : Source) (host : List HostEvent) (rdata lastTaken : BitVec 32)
    (n : Nat) : (State.afterHardwareReset par src host rdata lastTaken n).InRange :=
  of_parts (Nat.zero_le _) (Nat.zero_le _) Unpacker.zero_inRange (Nat.zero_le _)

theorem hostEffect (h : s.InRange) (he : HostEffect s t) : t.InRange := by
  cases he with
  | nothing ht => exact ht ▸ h
  | configError ht => subst ht; exact h.congr rfl rfl rfl rfl
  | opens hgood ht => subst ht; exact of_parts h.w h.payLen h.unpacker (overflowCount_le _ _)
  | resets ht => subst ht; exact of_parts (by simp) (by simp) (by simpa using Unpacker.zero_inRange) (by simp)
  | configures channels bps n g o hst ht => subst ht; exact h.congr rfl rfl rfl rfl
  | loads g d hg hst ht => subst ht; exact h.congr rfl rfl rfl rfl
  | consumes v n x ht => subst ht; exact h.congr rfl rfl rfl rfl
  | source src hst hsrc ht => subst ht; exact h.congr rfl rfl rfl rfl
  | hardware ht => exact ht ▸ afterHardwareReset s.par s.src s.host s.rdata s.lastTaken s.fresh

end State.InRange

/-- Settles O50: only a block writes the counts of the decoder; its width and length are legal, and its unpacker ends
at its exit. -/
theorem stepKeepsRanges : Obligations.StepKeepsRanges := fun _ _ hs =>
  step_keeps (fun _ _ h => h.congr rfl rfl rfl rfl) (fun _ _ => State.InRange.unitEffect)
    (fun _ _ => State.InRange.hostEffect) hs

/-! The error registers (`10_state.md` R24). -/

namespace State.ErrorsClear
variable {s t : State}

/-- Outside ERROR a state that keeps STATE or leaves BUSY for DONE, and keeps the error registers, keeps them clear. -/
theorem congr (h : s.ErrorsClear) (hst : t.st ≠ .error → s.st ≠ .error) (hcode : t.errCode = s.errCode)
    (hgroup : t.errGroup = s.errGroup) (hchan : t.errChan = s.errChan) (haddr : t.errAddr = s.errAddr) :
    t.ErrorsClear := fun ht => by
  rw [hcode, hgroup, hchan, haddr]
  exact h (hst ht)

theorem unitEffect (h : s.ErrorsClear) (hu : UnitEffect s t) : t.ErrorsClear := by
  cases hu with
  | quiet ht => exact ht ▸ h
  | seeks hst hp ht => subst ht; exact h.congr id rfl rfl rfl rfl
  | raises e a v hst hv ht => exact fun hne => absurd (ht ▸ raise_st e a v) hne
  | completes i bs hst hp hi hw hlen hn ht =>
    subst ht
    exact h.congr (by simp) (by simp) (by simp) (by simp) (by simp)
  | passes c x hst hp hc hlong ht => subst ht; exact h.congr id rfl rfl rfl rfl
  | emits vs hst hp hf ht => subst ht; exact h.congr id rfl rfl rfl rfl
  | ends hst ht => subst ht; exact h.congr (fun _ => by simp [hst]) rfl rfl rfl rfl

theorem hostEffect (h : s.ErrorsClear) (he : HostEffect s t) : t.ErrorsClear := by
  cases he with
  | nothing ht => exact ht ▸ h
  | configError ht => exact fun hst => absurd (ht ▸ raise_st _ _ _) hst
  | opens hgood ht => subst ht; exact fun _ => ⟨rfl, rfl, rfl, rfl⟩
  | resets ht => subst ht; exact fun _ => by simp
  | configures channels bps n g o hst ht => subst ht; exact h.congr id rfl rfl rfl rfl
  | loads g d hg hst ht => subst ht; exact h.congr id rfl rfl rfl rfl
  | consumes v n x ht => subst ht; exact h.congr id rfl rfl rfl rfl
  | source src hst hsrc ht => subst ht; exact h.congr id rfl rfl rfl rfl
  | hardware ht => subst ht; exact fun _ => ⟨rfl, rfl, rfl, rfl⟩

end State.ErrorsClear

/-- Settles O51: only a raise writes the error registers other than to clear them, and it makes STATE ERROR. -/
theorem stepKeepsErrorRegistersClear : Obligations.StepKeepsErrorRegistersClear := fun _ _ hs =>
  step_keeps (fun _ _ h => h.congr id rfl rfl rfl rfl) (fun _ _ => State.ErrorsClear.unitEffect)
    (fun _ _ => State.ErrorsClear.hostEffect) hs

/-! Where CUR can be (`10_state.md` R14). -/

/-- A 64-bit sum is at most the exact sum, whether it wraps or not. -/
theorem toNat_add_le (x y : BitVec 64) : (x + y).toNat ≤ x.toNat + y.toNat := Nat.mod_le _ _

namespace State.CursorBounded
variable {s t : State}

/-- A state that keeps CUR, and is in a BLOCK phase only if `s` is with the same C_IDX, keeps the bound. -/
theorem congr (h : s.CursorBounded) (hcur : t.cur = s.cur)
    (hblock : t.st = .busy → t.phase = .block → s.st = .busy ∧ s.phase = .block ∧ t.cIdx = s.cIdx) :
    t.CursorBounded := by
  refine ⟨hcur ▸ h.1, fun hst hp => ?_⟩
  obtain ⟨hst, hp, hc⟩ := hblock hst hp
  rw [hcur, hc]
  exact h.2 hst hp

/-- Outside the BLOCK phase of a session the bound is the coarse one. -/
theorem of_not_block (hcur : t.cur.toNat ≤ 2 * (2 ^ 32 - 1) + 65535 * 2064) (h : t.st = .busy → t.phase ≠ .block) :
    t.CursorBounded := ⟨hcur, fun hst hp => absurd hp (h hst)⟩

/-- SEEK goes to the sum of two 32-bit offsets (`42_assembler.md` R151). -/
theorem seek (s : State) : (Machine.seek s).CursorBounded := by
  have hcur : (Machine.seek s).cur.toNat ≤ 2 * (2 ^ 32 - 1) := by
    have h := toNat_add_le (s.dataOffset.setWidth 64) ((s.offtab.read s.gIdx).setWidth 64)
    have hd := s.dataOffset.isLt
    have ho := (s.offtab.read s.gIdx).isLt
    rw [seek_cur]
    simp only [BitVec.toNat_setWidth] at h
    omega
  exact ⟨by omega, fun _ _ => ⟨by simp, by simpa using hcur⟩⟩

theorem raise {e : Cause} {a : Nat} {v : State} (h : s.CursorBounded) (hst : s.st = .busy) (hv : RaisedIn s v) :
    (Machine.raise e a v).CursorBounded := by
  refine of_not_block ?_ (by simp)
  have headerRead (hp : s.phase = .block) : (s.cur + 16).toNat ≤ 2 * (2 ^ 32 - 1) + 65535 * 2064 := by
    obtain ⟨hc, hcur⟩ := h.2 hst hp
    have := toNat_add_le s.cur 16
    simp only [BitVec.reduceToNat] at this
    omega
  cases hv with
  | headerUnread => exact h.1
  | headerRead base bits flags hp => exact headerRead hp
  | payloadUnread i hp hi hw hn => simpa only [raise_cur, streamStart_cur hi] using headerRead hp
  | checked c => exact h.1

/-- A block moves CUR by its header and at most 2048 payload bytes, and C_IDX by one. -/
theorem completeBlock {i : Instr} {bs : List Byte} (h : s.CursorBounded) (hst : s.st = .busy) (hp : s.phase = .block)
    (hi : isStreamInstr i = true) (hn : payloadBytes i s ≤ 2048) : (completeBlock i bs s).CursorBounded := by
  obtain ⟨hc, hcur⟩ := h.2 hst hp
  have hnext : (Machine.completeBlock i bs s).cur.toNat ≤ 2 * (2 ^ 32 - 1) + (s.cIdx + 1) * 2064 := by
    have h16 := toNat_add_le s.cur 16
    have hpay := toNat_add_le (s.cur + 16) (BitVec.ofNat 64 (payloadBytes i s))
    simp only [BitVec.reduceToNat, BitVec.toNat_ofNat] at h16 hpay
    simp only [completeBlock_cur, streamStart_cur hi, streamStart_payLen hi]
    omega
  refine ⟨hnext.trans (by omega), fun _ hblock => ?_⟩
  rw [completeBlock_cIdx]
  refine ⟨?_, hnext⟩
  have hC := s.channels.isLt
  by_cases hlast : s.cIdx + 1 < s.channels.toNat
  · omega
  · rw [completeBlock_phase, if_neg hlast] at hblock
    split at hblock <;> cases hblock

theorem unitEffect (h : s.CursorBounded) (hu : UnitEffect s t) : t.CursorBounded := by
  cases hu with
  | quiet ht => exact ht ▸ h
  | seeks hst hp ht => exact ht ▸ seek s
  | raises e a v hst hv ht => exact ht ▸ h.raise hst hv
  | completes i bs hst hp hi hw hlen hn ht => exact ht ▸ h.completeBlock hst hp hi hn
  | passes c x hst hp hc hlong ht => subst ht; exact of_not_block h.1 (by simp)
  | emits vs hst hp hf ht => subst ht; exact of_not_block h.1 (by simp [hp])
  | ends hst ht => subst ht; exact of_not_block h.1 (by simp)

theorem hostEffect (h : s.CursorBounded) (he : HostEffect s t) : t.CursorBounded := by
  cases he with
  | nothing ht => exact ht ▸ h
  | configError ht => subst ht; exact of_not_block (by simp) (by simp)
  | opens hgood ht => subst ht; exact of_not_block (by simp) (by simp only [openSession_phase]; split <;> simp)
  | resets ht => subst ht; exact of_not_block (by simp) (by simp)
  | configures channels bps n g o hst ht => subst ht; exact h.congr rfl fun hst hp => ⟨hst, hp, rfl⟩
  | loads g d hg hst ht => subst ht; exact h.congr rfl fun hst hp => ⟨hst, hp, rfl⟩
  | consumes v n x ht => subst ht; exact h.congr rfl fun hst hp => ⟨hst, hp, rfl⟩
  | source src hst hsrc ht => subst ht; exact h.congr rfl fun hst hp => ⟨hst, hp, rfl⟩
  | hardware ht => subst ht; exact of_not_block (Nat.zero_le _) (fun hst => by cases hst)

end State.CursorBounded

/-- Settles O53: SEEK puts CUR at a sum of two offsets, and no more than 65535 blocks of at most 2064 bytes follow. -/
theorem stepKeepsCursorBounded : Obligations.StepKeepsCursorBounded := fun s t hs h => by
  have ht : t.CursorBounded := step_keeps (fun _ _ h => h.congr rfl fun hst hp => ⟨hst, hp, rfl⟩)
    (fun _ _ => State.CursorBounded.unitEffect) (fun _ _ => State.CursorBounded.hostEffect) hs h
  exact ⟨ht, by have := ht.1; omega⟩

/-! The session (`10_state.md` R13, `42_assembler.md` R150, R158, R159). -/

/-- DROP_FIRST keeps what lies at and past OVERFLOW (R155). -/
theorem keptSamples_dropFirst (n i : Nat) (vs : List Sample) :
    keptSamples true .dropFirst n i vs = vs.drop (n - i) := by
  induction vs generalizing i with
  | nil => simp [keptSamples]
  | cons v vs ih =>
    simp only [keptSamples, keepSample, ih, Bool.not_true, Bool.false_or, decide_eq_true_eq]
    split
    · next h => rw [Nat.sub_eq_zero_of_le h, Nat.sub_eq_zero_of_le (by omega)]; rfl
    · next h => rw [show n - i = (n - (i + 1)) + 1 by omega, List.drop_succ_cons]

/-- KEEP_FIRST keeps what lies below OVERFLOW (R157). -/
theorem keptSamples_keepFirst (n i : Nat) (vs : List Sample) :
    keptSamples true .keepFirst n i vs = vs.take (n - i) := by
  induction vs generalizing i with
  | nil => simp [keptSamples]
  | cons v vs ih =>
    simp only [keptSamples, keepSample, ih, Bool.not_true, Bool.false_or, decide_eq_true_eq]
    split
    · next h => rw [show n - i = (n - (i + 1)) + 1 by omega, List.take_succ_cons]
    · next h => rw [Nat.sub_eq_zero_of_le (by omega : n ≤ i + 1), Nat.sub_eq_zero_of_le (by omega : n ≤ i)]; rfl

/-- DROP_LAST keeps what KEEP_FIRST keeps with the complementary count (R156). -/
theorem keptSamples_dropLast (n i : Nat) (vs : List Sample) :
    keptSamples true .dropLast n i vs = keptSamples true .keepFirst (512 - n) i vs := by
  induction vs generalizing i with
  | nil => rfl
  | cons v vs ih =>
    simp only [keptSamples, keepSample, ih]
    rfl

/-- How many samples a block contributes (`42_assembler.md` R154, R167). -/
theorem keptSamples_length {final : Bool} {p : TrimPolicy} {n : Nat} {vs : List Sample} (hn : n ≤ 511)
    (hvs : vs.length = 512) : (keptSamples final p n 0 vs).length = if final then finalKept p n else 512 := by
  cases final with
  | false => simp [keptSamples_all, hvs]
  | true =>
    cases p <;>
      simp only [keptSamples_dropFirst, keptSamples_dropLast, keptSamples_keepFirst, finalKept, List.length_drop,
        List.length_take, if_true] <;>
      omega

/-- R158, from one block-group to the next. -/
theorem lengthAfter_succ (p : TrimPolicy) (o : Nat) {total g : Nat} (hg : g < total) :
    lengthAfter p o total (g + 1) = lengthAfter p o total g + if g + 1 = total then finalKept p o else 512 := by
  have hold : lengthAfter p o total g = 512 * g := by
    unfold lengthAfter
    split
    · omega
    · rw [if_neg (Nat.ne_of_lt hg)]
  rw [hold, lengthAfter, if_neg (Nat.succ_ne_zero g), Nat.add_sub_cancel]
  split <;> omega

/-- A block lengthens CH[C_IDX] by what the group's blocks contribute, and no other channel. -/
theorem completeBlock_channel_length {i : Instr} {bs : List Byte} {s : State} (hi : isStreamInstr i = true)
    (hch : s.ch.Pairwise (fun a b => a.1 < b.1)) (ho : s.overflow ≤ 511) (c : Nat) :
    (channel (completeBlock i bs s).ch c).length =
      (channel s.ch c).length +
        if c = s.cIdx then (if s.gIdx + 1 = s.numGroups.toNat then finalKept s.par.trimPolicy s.overflow else 512)
        else 0 := by
  rw [completeBlock_ch, channel_appendChannel hch]
  split
  · next hc =>
    subst hc
    simp [keptSamples_length ho (streamDecode_full hi _), inFinalGroup]
  · rfl

/-- What R158 asks after a block: one group more for the channels done with this group, the last of them now. -/
theorem completeBlock_expectedLength {i : Instr} {bs : List Byte} {s : State} {c : Nat} (hp : s.phase = .block)
    (hc : c < s.channels.toNat) :
    expectedLength (completeBlock i bs s) c =
      lengthAfter s.par.trimPolicy s.overflow s.numGroups.toNat (if c < s.cIdx + 1 then s.gIdx + 1 else s.gIdx) := by
  simp only [expectedLength, completeBlock_par, completeBlock_overflow, completeBlock_numGroups, completeBlock_phase,
    completeBlock_gIdx, completeBlock_cIdx, hp]
  by_cases hlast : s.cIdx + 1 < s.channels.toNat
  · simp [hlast]
  · have hdone : c < s.cIdx + 1 := by omega
    rw [if_neg hlast, if_neg hlast, if_pos hdone]
    by_cases hg : s.gIdx + 1 < s.numGroups.toNat <;> simp [hg]

namespace State.Running
variable {s t : State}

theorem overflow_le (h : s.Running) : s.overflow ≤ 511 := h.overflow ▸ overflowCount_le _ _

/-- SEEK opens the BLOCK phase of its group (R150). -/
theorem seek (h : s.Running) (hp : s.phase = .seek) : (Machine.seek s).Running where
  config := h.config
  overflow := h.overflow
  groups := by simpa [hp] using h.groups
  channelIdx := fun _ => Nat.pos_of_ne_zero h.config.1
  channelBound := Nat.zero_le _
  lengths := fun c hc => by simpa [expectedLength, hp] using h.lengths c hc
  checked := by simp
  frames := by simpa [hp] using h.frames

/-- A block that completes makes its channel as long as R158 says for one group more, and moves the indices (R150). -/
theorem completeBlock {i : Instr} {bs : List Byte} (h : s.Running) (hp : s.phase = .block)
    (hch : s.ch.Pairwise (fun a b => a.1 < b.1)) (hi : isStreamInstr i = true) : (completeBlock i bs s).Running := by
  have hgroup : s.gIdx < s.numGroups.toNat := by simpa [hp] using h.groups
  have hidx := h.channelIdx hp
  have hframes : s.fIdx = 0 := by simpa [hp] using h.frames
  have hphase : (Machine.completeBlock i bs s).phase =
      if s.cIdx + 1 < s.channels.toNat then .block else if s.gIdx + 1 < s.numGroups.toNat then .seek else .check := by
    simp [hp]
  exact
    { config := by simpa [ConfigGood] using h.config
      overflow := by simpa using h.overflow
      groups := by
        rw [hphase, completeBlock_gIdx, completeBlock_numGroups]
        split
        · simpa using hgroup
        · split <;> simp <;> omega
      channelIdx := by
        rw [hphase, completeBlock_cIdx, completeBlock_channels]
        split
        · exact fun _ => ‹_›
        · split <;> simp
      channelBound := by simpa using hidx
      lengths := by
        intro c hc
        rw [completeBlock_channels] at hc
        rw [completeBlock_channel_length hi hch h.overflow_le, h.lengths c hc, completeBlock_expectedLength hp hc,
          expectedLength]
        simp only [hp, true_and]
        rcases Nat.lt_trichotomy c s.cIdx with hlt | rfl | hgt
        · simp [hlt, Nat.lt_succ_of_lt hlt, hlt.ne]
        · simp [lengthAfter_succ _ _ hgroup]
        · simp [hgt.not_gt, hgt.ne', Nat.not_lt.2 (Nat.succ_le_of_lt hgt)]
      checked := by
        rw [hphase]
        split
        · simp
        · split <;> simp
      frames := by
        rw [hphase, completeBlock_fIdx, hframes]
        split
        · simp
        · split <;> simp }

/-- CHECK passes to INTERLEAVE when no channel is too short (R159). -/
theorem passes {c : Nat} {x : Bool} (h : s.Running) (hp : s.phase = .check) (hc : c ≤ s.cIdx ∨ c < s.channels.toNat)
    (hlong : ∀ d, d < s.channels.toNat → s.numSamples.toNat ≤ (channel s.ch d).length) :
    State.Running { s with cIdx := c, exc := x, phase := .interleave } where
  config := h.config
  overflow := h.overflow
  groups := by simpa [hp] using h.groups
  channelIdx := by simp
  channelBound := hc.elim (fun hle => hle.trans h.channelBound) Nat.le_of_lt
  lengths := fun d hd => by simpa [expectedLength, hp] using h.lengths d hd
  checked := fun _ => hlong
  frames := by
    have hf : s.fIdx = 0 := by simpa [hp] using h.frames
    simp [hf]

/-- INTERLEAVE goes on to the next frame (R160). -/
theorem emits {vs : List Sample} (h : s.Running) (hp : s.phase = .interleave) (hf : s.fIdx < s.numSamples.toNat) :
    State.Running { s with out := s.out ++ vs, fIdx := s.fIdx + 1 } where
  config := h.config
  overflow := h.overflow
  groups := h.groups
  channelIdx := h.channelIdx
  channelBound := h.channelBound
  lengths := h.lengths
  checked := h.checked
  frames := by simpa [hp] using hf

/-- START opens a session with empty channel buffers (`43_host_commands.md` R183). -/
theorem opens (hgood : ConfigGood s) : (openSession (startClears s)).Running where
  config := hgood
  overflow := rfl
  groups := by
    have h0 : s.numGroups = 0 ↔ s.numGroups.toNat = 0 := by rw [← BitVec.toNat_inj]; rfl
    simp only [openSession_phase, openSession_gIdx, openSession_numGroups, startClears_numGroups, startClears_gIdx, h0]
    split <;> simp <;> omega
  channelIdx := by simp only [openSession_phase]; split <;> simp
  channelBound := Nat.zero_le _
  lengths := fun c hc => by simp [expectedLength, lengthAfter, channel]
  checked := by simp only [openSession_phase]; split <;> simp
  frames := by simp only [openSession_phase]; split <;> simp

/-- Events that touch none of what a session runs on. -/
theorem consumes {v x : BitVec 32} {n : Nat} (h : s.Running) :
    State.Running { s with rdata := v, taken := n, lastTaken := x } :=
  ⟨h.config, h.overflow, h.groups, h.channelIdx, h.channelBound, h.lengths, h.checked, h.frames⟩

theorem pending {es : List HostEvent} (h : s.Running) : State.Running { s with host := es } :=
  ⟨h.config, h.overflow, h.groups, h.channelIdx, h.channelBound, h.lengths, h.checked, h.frames⟩

end State.Running

namespace State.Consistent
variable {s t : State}

theorem of_running (hst : t.st = .busy) (h : t.Running) : t.Consistent := ⟨fun _ => h, fun hne => absurd hst hne⟩

theorem of_empty (hst : t.st ≠ .busy) (hch : t.ch = []) : t.Consistent := ⟨fun hb => absurd hb hst, fun _ => hch⟩

theorem unitEffect (hcanon : s.Canonical) (h : s.Consistent) (hu : UnitEffect s t) : t.Consistent := by
  cases hu with
  | quiet ht => exact ht ▸ h
  | seeks hst hp ht => exact ht ▸ of_running (by simpa using hst) ((h.1 hst).seek hp)
  | raises e a v hst hv ht => exact ht ▸ of_empty (by simp) (by simp)
  | completes i bs hst hp hi hw hlen hn ht =>
    exact ht ▸ of_running (by simpa using hst) ((h.1 hst).completeBlock hp hcanon.channels hi)
  | passes c x hst hp hc hlong ht => exact ht ▸ of_running hst ((h.1 hst).passes hp hc hlong)
  | emits vs hst hp hf ht => exact ht ▸ of_running hst ((h.1 hst).emits hp hf)
  | ends hst ht => exact ht ▸ of_empty (by simp) rfl

theorem hostEffect (h : s.Consistent) (he : HostEffect s t) : t.Consistent := by
  cases he with
  | nothing ht => exact ht ▸ h
  | configError ht => exact ht ▸ of_empty (by simp) rfl
  | opens hgood ht => exact ht ▸ of_running rfl (State.Running.opens hgood)
  | resets ht => exact ht ▸ of_empty (by simp) (by simp)
  | configures channels bps n g o hst ht => exact ht ▸ of_empty hst (h.2 hst)
  | loads g d hg hst ht => exact ht ▸ of_empty hst (h.2 hst)
  | consumes v n x ht => exact ht ▸ ⟨fun hst => (h.1 hst).consumes, h.2⟩
  | source src hst hsrc ht => exact ht ▸ of_empty hst (h.2 hst)
  | hardware ht => exact ht ▸ of_empty (fun hst => by cases hst) rfl

end State.Consistent

/-- Settles O52: with the canonical form of CH, kept along with them, every move of a session keeps its relations, and
every way out of a session clears the buffers. -/
theorem stepKeepsSessionConsistent : Obligations.StepKeepsSessionConsistent := fun _ _ hcanon hs h =>
  (step_keeps (P := fun s => s.Canonical ∧ s.Consistent)
    (fun _ _ h => ⟨h.1.congr rfl rfl rfl rfl rfl rfl, fun hst => (h.2.1 hst).pending, h.2.2⟩)
    (fun _ _ h hu => ⟨h.1.unitEffect hu, h.2.unitEffect h.1 hu⟩)
    (fun _ _ h he => ⟨h.1.hostEffect he, h.2.hostEffect he⟩) ⟨hcanon, hs⟩ h).2

end Sys2Proof.Machine

/-! The stream instructions that complete (`41_block_decode.md` R120, R130 to R133). -/

namespace Sys2Proof.Machine

/-! What a ready instruction comes to. -/

theorem payloadAt_length (i : Instr) (s : State) : (payloadAt i s).length = payloadBytes i s := by simp [payloadAt]

theorem StreamReady.isStream {i : Instr} {s : State} (h : StreamReady i s) : isStreamInstr i = true := by
  obtain ⟨-, hi, -⟩ := h
  cases i with
  | raw base flags r => rfl
  | delta base w flags r => rfl
  | trunc base w flags r => rfl
  | start x => exact hi.elim
  | reset b x => exact hi.elim

/-- The payload of a ready instruction ends below 2^64, so that CUR does not wrap. -/
theorem StreamReady.end_lt {i : Instr} {s : State} (h : StreamReady i s) :
    s.cur.toNat + 16 + payloadBytes i s < 2 ^ 64 :=
  h.2.2.1.trans_lt s.src.len.isLt

theorem StreamReady.streamStart_cur_toNat {i : Instr} {s : State} (h : StreamReady i s) :
    (streamStart i s).cur.toNat = s.cur.toNat + 16 := by
  have hlt := h.end_lt
  rw [streamStart_cur h.isStream, BitVec.toNat_add]
  exact Nat.mod_eq_of_lt (by simp only [BitVec.reduceToNat]; omega)

/-- A ready instruction completes, its payload the bytes after the header at CUR. -/
theorem StreamReady.exec_eq {i : Instr} {s : State} (h : StreamReady i s) (hwf : Memory.wf s.src.mem) :
    exec i s = .next (completeBlock i (payloadAt i s) s) := by
  have hi := h.isStream
  have hread : memRead s.src (streamStart i s).cur.toNat (streamStart i s).payLen = .ok (payloadAt i s) := by
    rw [h.streamStart_cur_toNat, streamStart_payLen hi, memRead_of_readable h.2.2, Memory.readRange_eq hwf, payloadAt]
  rcases exec_stream_cases hi s with ⟨base, flags, r, rfl, hdepth, -⟩ | ⟨-, ⟨e, hm, -⟩ | ⟨bs, hm, hx⟩⟩
  · exact absurd (rawDepthLegal_iff.2 h.2.1) (by simp [hdepth])
  · cases hread.symm.trans hm
  · cases hread.symm.trans hm
    exact hx

section Completed
variable {i : Instr} {s : State} (h : StreamReady i s)
include h

theorem StreamReady.cur_toNat (bs : List Byte) :
    (completeBlock i bs s).cur.toNat = s.cur.toNat + 16 + payloadBytes i s := by
  have hlt := h.end_lt
  have hpay : payloadBytes i s % 2 ^ 64 = payloadBytes i s := Nat.mod_eq_of_lt (by omega)
  rw [completeBlock_cur, streamStart_payLen h.isStream, BitVec.toNat_add, h.streamStart_cur_toNat, BitVec.toNat_ofNat,
    hpay]
  exact Nat.mod_eq_of_lt hlt

theorem StreamReady.payLen_eq (bs : List Byte) : (completeBlock i bs s).payLen = payloadBytes i s := by
  rw [completeBlock_payLen, streamStart_payLen h.isStream]

/-- PAY[0 .. PAY_LEN) holds the payload (R128). -/
theorem StreamReady.pay_take :
    (completeBlock i (payloadAt i s) s).pay.take (completeBlock i (payloadAt i s) s).payLen = payloadAt i s := by
  rw [h.payLen_eq, completeBlock_pay, List.take_left' (payloadAt_length i s)]

end Completed

/-! RAW. -/

/-- Raw sample i is the i-th group of `b` payload bytes (`30_encoding.md` R80). -/
theorem rawSamples_eq (b n : Nat) (p : List Byte) :
    rawSamples b n p = (List.range n).map fun i => sext32 (leNat ((p.drop (i * b)).take b)) (8 * b) := by
  induction n generalizing p with
  | zero => rfl
  | succ n ih =>
    rw [rawSamples, ih, List.range_succ_eq_map, List.map_cons, List.map_map, Nat.zero_mul, List.drop_zero]
    congr 1
    refine List.map_congr_left fun i _ => ?_
    rw [Function.comp, List.drop_drop, Nat.succ_mul i, Nat.add_comm (i * b) b]

theorem take_drop_map_range {α : Type} (f : Nat → α) (q : List α) {n a b : Nat} (h : a + b ≤ n) :
    (((List.range n).map f ++ q).drop a).take b = (List.range b).map fun j => f (a + j) := by
  apply List.ext_getElem
  · simp
    omega
  · intro j h1 h2
    have hj : j < b := by simpa using h2
    simp [List.getElem_append_left, show a + j < n by omega]

/-- Settles O17: RAW fills S from consecutive groups of B payload bytes, and writes neither unpacker, PREV nor OVF. -/
theorem rawCompletes : Obligations.RawCompletes := by
  intro base flags r s h hwf b
  have hn : payloadBytes (.raw base flags r) s = 512 * b := Nat.mul_comm ..
  refine ⟨_, h.exec_eq hwf, ?_, hn ▸ h.cur_toNat _, by simp [streamStart], by simp [streamStart], by simp [streamStart],
    by simp [streamStart], by simp [streamStart], hn ▸ h.payLen_eq _, h.pay_take, by simp [streamDecode],
    by simp [streamDecode], by simp [streamDecode]⟩
  simp only [completeBlock_sbuf, streamDecode, decodeRaw_sbuf, loadPayload_bitsPerSample, streamStart_bitsPerSample,
    loadPayload_pay, rawSamples_eq]
  refine List.map_congr_left fun i hi => ?_
  have hle : i * b + b ≤ 512 * b := by
    rw [← Nat.succ_mul]
    exact Nat.mul_le_mul_right b (List.mem_range.1 hi)
  have hb : rawBytes s.bitsPerSample = b := rfl
  rw [payloadAt, hn, hb, take_drop_map_range _ _ hle]
  simp only [Nat.add_assoc]

/-! The packed payload of DELTA and TRUNC. -/

/-- UNPACK on the payload of a DELTA or TRUNC block yields its packed values (R106), and ends at its exit (R107 (e)),
whatever lies behind the payload in PAY. -/
theorem unpack_loaded {i : Instr} {s u : State} {w : Nat} (hu : u = loadPayload (payloadAt i s) (streamStart i s))
    (hiw : (streamStart i s).w = w) (hn : payloadBytes i s = 64 * w) (hw : w ≤ 32) :
    (unpack u.w u.pay).1 = { acc := 0, nbits := 0, payPtr := 64 * w, k := 512 } ∧
      (unpack u.w u.pay).2 = (List.range 512).map (packedValue (payloadAt i s) w) := by
  subst hu
  have hp : (payloadAt i s).length = 64 * w := (payloadAt_length i s).trans hn
  rw [loadPayload_w, hiw, loadPayload_pay]
  refine ⟨unpack_exit hw (by simp [hp]), ?_⟩
  rw [unpack_samples hw (by simp [hp])]
  refine List.map_congr_left fun k hk => ?_
  have hk : k < 512 := List.mem_range.1 hk
  rw [packedValue, packedValue, packedField_append _ (by nlinarith)]

theorem bits_toInt_delta {w : Nat} (hw : w ≤ 32) : (BitVec.ofNat 16 w).toInt = w := by
  rw [BitVec.toInt_ofNat']
  exact Int.bmod_eq_of_le (by omega) (by omega)

theorem bits_toInt_trunc {w : Nat} (hw : w ≤ 32) : (BitVec.ofInt 16 (-(w : Int))).toInt = -(w : Int) := by
  rw [BitVec.toInt_ofInt]
  exact Int.bmod_eq_of_le (by omega) (by omega)

/-! DELTA. -/

theorem wrap32_add (x y : Int) : wrap32 (x + y) = wrap32 x + wrap32 y := BitVec.ofInt_add ..

theorem wrap32_toInt (x : Sample) : wrap32 x.toInt = x := BitVec.ofInt_toInt

/-- The exact sum of the base and the first `i` deltas, wrapped (R131). -/
def runningSum (base : Sample) (v : Nat → Sample) (i : Nat) : Sample :=
  wrap32 (base.toInt + ((List.range i).map fun k => (v k).toInt).sum)

theorem runningSum_zero (base : Sample) (v : Nat → Sample) : runningSum base v 0 = base := by
  simp [runningSum, wrap32_toInt]

/-- Wrapping after each addition gives the wrapped exact sum. -/
theorem runningSum_deltaAdd (base : Sample) (v : Nat → Sample) (i : Nat) :
    runningSum (deltaAdd base (v 0)) (fun k => v (k + 1)) i = runningSum base v (i + 1) := by
  simp only [runningSum, deltaAdd, List.range_succ_eq_map, List.map_cons, List.map_map, List.sum_cons, wrap32_add,
    wrap32_toInt]
  rw [BitVec.add_assoc]
  rfl

theorem map_range_succ_shift {α : Type} (f : Nat → α) (n : Nat) :
    (List.range (n + 1)).map f = f 0 :: (List.range n).map fun k => f (k + 1) := by
  rw [List.range_succ_eq_map, List.map_cons, List.map_map]
  rfl

/-- The samples of DELTA are the running sums (R131). -/
theorem deltaFrom_eq (base : Sample) (v : Nat → Sample) (n : Nat) :
    deltaFrom base ((List.range n).map v) = (List.range n).map fun i => runningSum base v (i + 1) := by
  induction n generalizing base v with
  | zero => rfl
  | succ n ih =>
    rw [map_range_succ_shift v, map_range_succ_shift, deltaFrom, ih, ← runningSum_deltaAdd, runningSum_zero]
    simp only [runningSum_deltaAdd]

theorem sumOverflows_iff {x y : Sample} :
    sumOverflows x y = true ↔ x.toInt + y.toInt < -(2 ^ 31) ∨ 2 ^ 31 - 1 < x.toInt + y.toInt := by
  simp [sumOverflows]

/-- OVF is set by the exact sums that leave the i32 range (R131, R133). -/
theorem deltaOverflows_iff (base : Sample) (v : Nat → Sample) (n : Nat) :
    deltaOverflows base ((List.range n).map v) = true ↔
      ∃ i, i < n ∧ sumOverflows (runningSum base v i) (v i) = true := by
  induction n generalizing base v with
  | zero => simp [deltaOverflows]
  | succ n ih =>
    rw [map_range_succ_shift v, deltaOverflows, Bool.or_eq_true, ih, Nat.exists_lt_succ_left, runningSum_zero]
    simp only [runningSum_deltaAdd]

/-- DELTA on 512 unpacked values: S, PREV and OVF (R131, R134). -/
theorem decodeDelta_of_values {s : State} {v : Nat → Sample} (hv : (unpack s.w s.pay).2 = (List.range 512).map v) :
    (decodeDelta s).sbuf = (List.range 512).map (runningSum s.base v) ∧
      (decodeDelta s).prev = runningSum s.base v 511 ∧
      ((decodeDelta s).ovf = true ↔
        s.ovf = true ∨ ∃ i, i < 511 ∧ sumOverflows (runningSum s.base v i) (v i) = true) := by
  have hused : (unpack s.w s.pay).2.take (Config.cap - 1) = (List.range 511).map v := by
    rw [hv, ← List.map_take, List.take_range]
    rfl
  have hsbuf : s.base :: deltaFrom s.base ((List.range 511).map v) = (List.range 512).map (runningSum s.base v) := by
    rw [deltaFrom_eq, map_range_succ_shift _ 511, runningSum_zero]
  refine ⟨?_, ?_, ?_⟩
  · rw [decodeDelta_sbuf, hused, hsbuf]
  · rw [decodeDelta_prev, hused, hsbuf, List.range_succ, List.map_append, List.map_singleton, List.getLastD_concat]
  · rw [decodeDelta_ovf, hused, Bool.or_eq_true, deltaOverflows_iff]

/-- Settles O18: UNPACK yields the packed values (R106), S is their running sum from BASE, and the unpacker stands at
its exit (R107 (e)). -/
theorem deltaCompletes : Obligations.DeltaCompletes := by
  intro base w flags r s h hwf v sample
  have hw := (delta_width h.1).2
  obtain ⟨hexit, hvalues⟩ := unpack_loaded (i := .delta base w flags r) (s := s) rfl rfl rfl hw
  obtain ⟨hsbuf, hprev, hovf⟩ := decodeDelta_of_values hvalues
  simp only [sumOverflows_iff, loadPayload_ovf, streamStart_ovf] at hovf
  refine ⟨_, h.exec_eq hwf, ?_, ?_, ?_, h.cur_toNat _, by simp [streamStart], ?_, by simp [streamStart],
    by simp [streamStart], by simp [streamStart], h.payLen_eq _, h.pay_take, ?_⟩
  · rw [completeBlock_sbuf]
    exact hsbuf
  · rw [completeBlock_prev]
    exact hprev
  · rw [completeBlock_ovf]
    exact hovf
  · simpa [streamStart] using bits_toInt_delta hw
  · rw [completeBlock_unp, streamDecode, decodeDelta_unp, hexit]
    exact ⟨rfl, rfl, rfl, rfl⟩

/-! TRUNC. -/

/-- Settles O19: UNPACK yields the packed values (R106), which are S, and the unpacker stands at its exit (R107 (e)). -/
theorem truncCompletes : Obligations.TruncCompletes := by
  intro base w flags r s h hwf
  have hw := (trunc_width h.1).2
  obtain ⟨hexit, hvalues⟩ := unpack_loaded (i := .trunc base w flags r) (s := s) rfl rfl rfl hw
  refine ⟨_, h.exec_eq hwf, ?_, h.cur_toNat _, by simp [streamStart], ?_, by simp [streamStart], by simp [streamStart],
    by simp [streamStart], h.payLen_eq _, h.pay_take, ?_⟩
  · rw [completeBlock_sbuf, streamDecode, decodeTrunc_sbuf, hvalues]
    rfl
  · simpa [streamStart] using bits_toInt_trunc hw
  · rw [completeBlock_unp, streamDecode, decodeTrunc_unp, hexit]
    exact ⟨rfl, rfl, rfl, rfl, by simp [streamDecode], by simp [streamDecode]⟩

end Sys2Proof.Machine

/-! The register map seen from the bus (`10_state.md` R26, R27, `43_host_commands.md` R181, R182, R187). -/

namespace Sys2Proof.Machine

/-- An aligned write to a register other than CTRL is `writeReg` in the state with the event taken off. -/
theorem step_of_write {s : State} {o : Nat} {d : BitVec 32} {es : List HostEvent} (h : s.host = .write o d :: es)
    (ho : o % 4 = 0) (hr : busReg s.par.offtabDepth o ≠ .ctrl) :
    step s = .next (writeReg (busReg s.par.offtabDepth o) d { s with host := es }) := by
  rw [step_of_host h]
  simp only [hostTurn, writeTurn, if_pos ho, Turn.outcome]

/-- An aligned read is `readReg`, and writes `rdata` alone. -/
theorem step_of_read {s : State} {o : Nat} {es : List HostEvent} (h : s.host = .read o :: es) (ho : o % 4 = 0) :
    step s = .next { s with host := es, rdata := readReg (busReg s.par.offtabDepth o) { s with host := es } } := by
  rw [step_of_host h]
  simp only [hostTurn, readTurn, if_pos ho]
  rfl

theorem readReg_host (r : BusReg) (s : State) (es : List HostEvent) :
    readReg r { s with host := es } = readReg r s := by
  cases r <;> rfl

theorem writeReg_of_busy {s : State} (r : BusReg) (d : BitVec 32) (h : s.st = .busy) : writeReg r d s = s := by
  simp [writeReg, h]

theorem writeReg_reserved (d : BitVec 32) (s : State) : writeReg .reserved d s = s := by simp [writeReg]

theorem writeReg_offtab {s : State} (g : Nat) (d : BitVec 32) (h : s.st ≠ .busy) :
    writeReg (.offtab g) d s = { s with offtab := s.offtab.write g d } := by
  simp [writeReg, h]

/-- Settles O36: the table window is the registers `offtab g`, and OFFTAB reads back what is written. -/
theorem offtabWriteLoadsEntry : Obligations.OfftabWriteLoadsEntry := by
  intro s g d es h
  have ho : (0x1000 + 4 * g) % 4 = 0 := by omega
  refine ⟨fun hst hg => ⟨{ s with host := es, offtab := s.offtab.write g d }, ?_, ?_, ?_, rfl⟩, fun hignored => ?_⟩
  · rw [step_of_write h ho (by simp [busReg_offtab hg]), busReg_offtab hg,
      writeReg_offtab (s := { s with host := es }) g d hst]
  · simp [Offtab.read_write]
  · intro x hx
    simp [Offtab.read_write, hx]
  · rcases Nat.lt_or_ge g s.par.offtabDepth with hg | hg
    · have hst : s.st = .busy := hignored.resolve_right (by omega)
      rw [step_of_write h ho (by simp [busReg_offtab hg]),
        writeReg_of_busy (s := { s with host := es }) _ d hst]
    · rw [step_of_write h ho (by simp [busReg_offtab_absent hg]), busReg_offtab_absent hg, writeReg_reserved]

/-- The registers a write leaves alone: STATUS, the error registers, CUR and what is reserved (R26, R27). -/
def BusReg.readOnly : BusReg → Bool
  | .status | .errCode | .errGroup | .errChan | .errAddrLo | .errAddrHi | .curLo | .curHi | .reserved => true
  | .ctrl | .channels | .bitsPerSample | .numSamples | .numGroups | .dataOffset | .offtab _ => false

theorem writeReg_of_readOnly {r : BusReg} (h : r.readOnly = true) (d : BitVec 32) (s : State) : writeReg r d s = s := by
  cases r <;> simp_all [BusReg.readOnly, writeReg]

theorem busReg_readOnly {depth o : Nat} (h4 : o % 4 = 0) (h : o = 0x04 ∨ (0x1C ≤ o ∧ o ≤ 0xFFC)) :
    (busReg depth o).readOnly = true := by
  rcases Nat.lt_or_ge o 0x38 with hlt | hge
  · have ho : o = 0x04 ∨ o = 0x1C ∨ o = 0x20 ∨ o = 0x24 ∨ o = 0x28 ∨ o = 0x2C ∨ o = 0x30 ∨ o = 0x34 := by omega
    rcases ho with rfl | rfl | rfl | rfl | rfl | rfl | rfl | rfl <;> rfl
  · rw [busReg_reserved hge (by omega)]
    rfl

/-- Settles O37: these offsets are read-only registers or reserved. -/
theorem readOnlyWritesIgnored : Obligations.ReadOnlyWritesIgnored := by
  intro s o d es h h4 ho
  have hr := busReg_readOnly (depth := s.par.offtabDepth) h4 ho
  rw [step_of_write h h4 (fun hc => by simp [hc, BusReg.readOnly] at hr), writeReg_of_readOnly hr]

/-- Every bit of STATUS, for either word of STATE (R23). -/
theorem statusWord_bits (st : Session) (o e : Bool) :
    (statusWord st o e).extractLsb' 0 2 = st.code ∧ (statusWord st o e).extractLsb' 2 2 = 0 ∧
      (statusWord st o e).getLsbD 4 = o ∧ (statusWord st o e).getLsbD 5 = e ∧
      (statusWord st o e).extractLsb' 6 26 = 0 := by
  unfold statusWord
  generalize st.code = c
  revert c o e
  decide

/-- Settles O39: the bits of the word, and the code of STATE. -/
theorem statusWordFields : Obligations.StatusWordFields := by
  intro st o e
  have hcode : st.code = (match st with | .idle => 0 | .busy => 1 | .done => 2 | .error => 3) := by cases st <;> rfl
  exact ⟨(statusWord_bits st o e).1.trans hcode, (statusWord_bits st o e).2⟩

/-- The two words of a 64-bit register (R26). -/
theorem extractLsb'_words (x : BitVec 64) :
    (x.extractLsb' 0 32).toNat = x.toNat % 2 ^ 32 ∧ (x.extractLsb' 32 32).toNat = x.toNat / 2 ^ 32 := by
  have := x.isLt
  simp only [BitVec.extractLsb'_toNat, Nat.shiftRight_eq_div_pow]
  omega

theorem setWidth_32_toNat {n : Nat} (x : BitVec n) (hn : n ≤ 32) : (x.setWidth 32).toNat = x.toNat :=
  BitVec.toNat_setWidth_of_le hn

/-- Settles O38: a read is `readReg` of the register at its offset. -/
theorem registerReads : Obligations.RegisterReads := by
  intro s o es h h4
  refine ⟨readReg (busReg s.par.offtabDepth o) s, by rw [step_of_read h h4, readReg_host], ?_, ?_, ?_, ?_, ?_, ?_, ?_,
    ?_, ?_, ?_⟩
  · rintro rfl; rfl
  · rintro rfl; exact (statusWord_bits s.st s.ovf s.exc).1
  · rintro rfl; exact setWidth_32_toNat s.channels (by decide)
  · rintro rfl; exact setWidth_32_toNat s.bitsPerSample (by decide)
  · rintro rfl; rfl
  · rintro rfl; rfl
  · rintro rfl; rfl
  · intro hlo hhi; rw [busReg_reserved hlo (by omega)]; rfl
  · rintro g rfl hg; rw [busReg_offtab hg]; rfl
  · intro
    refine ⟨?_, ?_, ?_, ?_, ?_, ?_, ?_, ?_⟩ <;> rintro rfl
    · rfl
    · exact setWidth_32_toNat s.errCode (by decide)
    · rfl
    · exact setWidth_32_toNat s.errChan (by decide)
    · exact (extractLsb'_words s.errAddr).1
    · exact (extractLsb'_words s.errAddr).2
    · exact (extractLsb'_words s.cur).1
    · exact (extractLsb'_words s.cur).2

/-! Reset, SEEK and the quiet unit (`10_state.md` R28, `42_assembler.md` R150, R151, `60_exceptions.md` R219). -/

/-- Settles O47: outside BUSY the unit's turn answers the state it is given. -/
theorem unitQuietOutsideBusy : Obligations.UnitQuietOutsideBusy := by
  intro s u h hst
  rw [step_of_unitTurn h, unitTurn]
  cases hu : u.st with
  | busy => exact absurd hu hst
  | idle | done | error => rfl

/-- Settles O27: the two offsets are zero-extended to 64 bits, where their sum fits. -/
theorem seekSetsCursor : Obligations.SeekSetsCursor := by
  intro s u h hst hp
  have hd := u.dataOffset.isLt
  have ho := (u.offtab.read u.gIdx).isLt
  have hcur : (seek u).cur.toNat = u.dataOffset.toNat + (u.offtab.read u.gIdx).toNat := by
    simp only [seek_cur, BitVec.toNat_add, BitVec.toNat_setWidth]
    omega
  refine ⟨seek u, ?_, hcur, by omega, rfl⟩
  rw [step_of_unitTurn h, unitTurn, hst, hp]
  rfl

theorem afterHardwareReset_column (par : Params) (src : Source) (host : List HostEvent) (rdata lastTaken : BitVec 32)
    (n : Nat) : AfterHardwareReset (State.afterHardwareReset par src host rdata lastTaken n) where
  sequencer := ⟨rfl, rfl, rfl, rfl, rfl⟩
  config := ⟨rfl, rfl, rfl, rfl, rfl⟩
  latch := ⟨rfl, rfl, rfl, rfl, rfl⟩
  unpacker := ⟨rfl, rfl, rfl, rfl, rfl⟩
  assembler := ⟨rfl, fun _ => rfl, rfl, rfl⟩
  status := ⟨rfl, rfl⟩
  errors := ⟨rfl, rfl, rfl, rfl⟩
  output := rfl

theorem softReset_column (s : State) : AfterResetCommand s (softReset s) where
  sequencer := ⟨rfl, rfl, rfl, rfl, rfl⟩
  config := ⟨rfl, rfl, rfl, rfl, rfl⟩
  table := fun _ => rfl
  latch := ⟨rfl, rfl, rfl, rfl, rfl⟩
  unpacker := ⟨rfl, rfl, rfl, rfl, rfl⟩
  assembler := ⟨rfl, fun _ => rfl, rfl, rfl⟩
  status := ⟨rfl, rfl⟩
  errors := ⟨rfl, rfl, rfl, rfl⟩
  output := rfl

theorem exec_reset_of_not_busy (b : Bool) (x : BitVec 30) {s : State} (h : s.st ≠ .busy) :
    exec (.reset b x) s = .next (softReset s) :=
  (exec_reset_cases b x s).elim (fun hb => absurd hb.1 h) And.right

/-- Settles O2: RESET is `softReset`, which keeps all that R28 keeps. -/
theorem resetCommandCompletes : Obligations.ResetCommandCompletes := fun b x s =>
  ⟨fun hst => (exec_reset_cases b x s).elim And.right fun h => absurd hst h.1, fun hst =>
    ⟨softReset s, exec_reset_of_not_busy b x hst, softReset_column s, by simp⟩⟩

/-- Settles O1: power-on and hardware reset are one column of R28, RESET is the other. -/
theorem resetTableBothColumns : Obligations.ResetTableBothColumns := by
  refine ⟨afterHardwareReset_column .., unitQuietOutsideBusy _ _ (.inl ⟨rfl, rfl⟩) (by decide), fun s es h => ?_,
    fun s b x hst => ⟨softReset s, exec_reset_of_not_busy b x hst, softReset_column s⟩⟩
  exact ⟨hardwareReset { s with host := es }, step_of_host h, afterHardwareReset_column .., rfl, rfl, rfl⟩

/-- Settles O54: the column of hardware reset has each invariant, and the empty source is canonical. -/
theorem resetMeetsInvariants : Obligations.ResetMeetsInvariants :=
  ⟨State.Canonical.afterHardwareReset ⟨Memory.wf_nil, by simp, List.Pairwise.nil⟩ [] 0 0 0,
    State.InRange.afterHardwareReset .., fun _ => ⟨rfl, rfl, rfl, rfl⟩, State.Consistent.of_empty (by decide) rfl,
    State.CursorBounded.of_not_block (Nat.zero_le _) (by decide)⟩

end Sys2Proof.Machine

/-! Little-endian numbers by their bytes (`00_scope.md` R7, `20_memory.md` R45, R46), and the header read from its bytes
(`30_encoding.md` R71, R81). -/

namespace Sys2Proof

theorem leNat_lt (p : List Byte) : leNat p < 2 ^ (8 * p.length) := by
  induction p with
  | nil => simp [leNat]
  | cons b p ih =>
    have hb := b.isLt
    rw [leNat, List.length_cons, Nat.mul_succ, Nat.pow_add]
    omega

/-- The bytes from `a` on are what a shift by `a` bytes leaves. -/
theorem leNat_drop (p : List Byte) (a : Nat) : leNat (p.drop a) = leNat p / 2 ^ (8 * a) := by
  induction a generalizing p with
  | zero => simp
  | succ a ih =>
    cases p with
    | nil => simp [leNat]
    | cons b p =>
      have hb := b.isLt
      rw [List.drop_succ_cons, ih, leNat, Nat.mul_succ, Nat.add_comm (8 * a), Nat.pow_add, ← Nat.div_div_eq_div_mul]
      congr 1
      omega

/-- The first `n` bytes are the low `n` bytes of the number. -/
theorem leNat_take (p : List Byte) (n : Nat) : leNat (p.take n) = leNat p % 2 ^ (8 * n) := by
  have hsplit := Machine.leNat_append (p.take n) (p.drop n)
  rw [List.take_append_drop] at hsplit
  rcases Nat.le_total n p.length with hn | hn
  · have hlt := leNat_lt (p.take n)
    rw [List.length_take_of_le hn] at hsplit hlt
    rw [hsplit, Nat.add_mul_mod_self_left, Nat.mod_eq_of_lt hlt]
  · rw [List.take_of_length_le hn]
    exact (Nat.mod_eq_of_lt ((leNat_lt p).trans_le (Nat.pow_le_pow_right (by decide) (by omega)))).symm

/-- Bit `j` of the number is bit `j mod 8` of byte `j div 8` (R46). -/
theorem leNat_testBit (p : List Byte) (j : Nat) : (leNat p).testBit j = (p.getD (j / 8) 0).getLsbD (j % 8) := by
  induction p generalizing j with
  | nil => simp [leNat]
  | cons b p ih =>
    rw [leNat, Nat.add_comm, show 256 = 2 ^ 8 from rfl, Nat.testBit_two_pow_mul_add _ b.isLt]
    split
    · next hj => simp [Nat.div_eq_of_lt hj, Nat.mod_eq_of_lt hj, BitVec.getLsbD]
    · next hj =>
      obtain ⟨k, rfl⟩ := Nat.exists_eq_add_of_le (Nat.le_of_not_lt hj)
      rw [Nat.add_sub_cancel_left, ih, Nat.add_div_left k (by decide), Nat.add_mod_left, List.getD_cons_succ]

/-- Settles O16: a field is a range of bits of the payload read as one number. -/
theorem packedBitsAreLsbFirst : Obligations.PackedBitsAreLsbFirst := by
  intro pay w k i hi _
  simp [Machine.packedField, Nat.testBit_mod_two_pow, Nat.testBit_shiftRight, hi, leNat_testBit]

/-- A field of H is the little-endian number of its bytes (R72). -/
theorem extractLsb'_headerWord {hdr : List Byte} (hlen : hdr.length = 16) (a n : Nat) :
    (headerWord hdr).extractLsb' (8 * a) (8 * n) = BitVec.ofNat (8 * n) (leNat ((hdr.drop a).take n)) := by
  have hlt := leNat_lt hdr
  rw [hlen] at hlt
  apply BitVec.eq_of_toNat_eq
  rw [BitVec.extractLsb'_toNat, headerWord, BitVec.toNat_ofNat, BitVec.toNat_ofNat, Nat.mod_eq_of_lt hlt, leNat_take,
    leNat_drop, Nat.mod_mod, Nat.shiftRight_eq_div_pow]

section HeaderFields
variable {hdr : List Byte} (hlen : hdr.length = 16)
include hlen

theorem headerBase_headerWord : headerBase (headerWord hdr) = BitVec.ofNat 32 (leNat ((hdr.drop 4).take 4)) :=
  extractLsb'_headerWord hlen 4 4

theorem headerBits_headerWord : headerBits (headerWord hdr) = BitVec.ofNat 16 (leNat ((hdr.drop 8).take 2)) :=
  extractLsb'_headerWord hlen 8 2

theorem headerFlags_headerWord : headerFlags (headerWord hdr) = BitVec.ofNat 16 (leNat ((hdr.drop 10).take 2)) :=
  extractLsb'_headerWord hlen 10 2

theorem headerReserved_headerWord : headerReserved (headerWord hdr) = BitVec.ofNat 32 (leNat (hdr.drop 12)) := by
  have h := extractLsb'_headerWord hlen 12 4
  rwa [List.take_of_length_le (by simp [hlen])] at h

end HeaderFields

/-- A byte put below a number that stands eight bits higher. -/
theorem shiftLeft_or_byte {b : Nat} (hb : b < 2 ^ 8) (x n : Nat) : x <<< (8 + n) ||| b <<< n = (b + 256 * x) <<< n := by
  rw [Nat.shiftLeft_add, ← Nat.shiftLeft_or_distrib, ← Nat.shiftLeft_add_eq_or_of_lt hb, Nat.shiftLeft_eq x]
  congr 1
  omega

theorem toNat_byte_shiftLeft (b : Byte) {n : Nat} (hn : n ≤ 24) : (b.setWidth 32 <<< n).toNat = b.toNat <<< n := by
  have hlt : b.toNat <<< n < 2 ^ 32 :=
    (Nat.shiftLeft_lt b.isLt).trans_le (Nat.pow_le_pow_right (by decide) (by omega))
  rw [BitVec.toNat_shiftLeft, BitVec.toNat_setWidth_of_le (by decide), Nat.mod_eq_of_lt hlt]

/-- The magic is the big-endian number of h0 to h3 (R73). -/
theorem headerMagic_headerWord {hdr : List Byte} (hlen : hdr.length = 16) :
    (headerMagic (headerWord hdr)).toNat = beNat (hdr.take 4) := by
  have hbyte : ∀ i, headerByte (headerWord hdr) i = BitVec.ofNat 8 (leNat ((hdr.drop i).take 1)) := fun i =>
    extractLsb'_headerWord hlen i 1
  obtain ⟨b0, b1, b2, b3, rest, rfl⟩ : ∃ b0 b1 b2 b3 rest, hdr = b0 :: b1 :: b2 :: b3 :: rest := by
    match hdr, hlen with
    | b0 :: b1 :: b2 :: b3 :: rest, _ => exact ⟨b0, b1, b2, b3, rest, rfl⟩
  simp only [headerMagic, hbyte, leNat, List.drop_zero, List.drop_succ_cons, List.take_succ_cons, List.take_zero,
    Nat.mul_zero, Nat.add_zero, BitVec.ofNat_toNat, BitVec.setWidth_eq]
  have h3 : b3.setWidth 32 = b3.setWidth 32 <<< 0 := (BitVec.shiftLeft_zero _).symm
  rw [h3, BitVec.toNat_or, BitVec.toNat_or, BitVec.toNat_or, toNat_byte_shiftLeft b0 (by decide),
    toNat_byte_shiftLeft b1 (by decide), toNat_byte_shiftLeft b2 (by decide), toNat_byte_shiftLeft b3 (by decide),
    shiftLeft_or_byte b1.isLt b0.toNat 16, shiftLeft_or_byte b2.isLt _ 8, shiftLeft_or_byte b3.isLt _ 0]
  rfl

section DecodeEquations
variable {magic : BitVec 32} {h : BitVec 128}

/-- Past the magic and the flags the mode decides (R81). -/
theorem decodeHeader_of_legal (hm : headerMagic h = magic) (h0 : (headerFlags h).getLsbD 0 = false)
    (h1 : (headerFlags h).getLsbD 1 = false) : decodeHeader magic h = decodeMode h := by
  simp only [decodeHeader, hm, h0, h1, ne_eq, not_true_eq_false, Bool.false_eq_true, if_false]

theorem decodeMode_of_zero (hb : (headerBits h).toInt = 0) :
    decodeMode h = .ok (.raw (headerBase h) (headerFlags h) (headerReserved h)) := if_pos hb

theorem decodeMode_of_pos (h1 : 1 ≤ (headerBits h).toInt) (h32 : (headerBits h).toInt ≤ 32) :
    decodeMode h =
      .ok (.delta (headerBase h) (headerBits h).toInt.toNat (headerFlags h) (headerReserved h)) := by
  have hmax : (Config.wMax : Int) = 32 := rfl
  rw [decodeMode, if_neg (by omega), if_neg (by omega), if_pos (by omega)]

theorem decodeMode_of_neg (h32 : -32 ≤ (headerBits h).toInt) (h1 : (headerBits h).toInt ≤ -1) :
    decodeMode h =
      .ok (.trunc (headerBase h) (-(headerBits h).toInt).toNat (headerFlags h) (headerReserved h)) := by
  have hmax : (Config.wMax : Int) = 32 := rfl
  rw [decodeMode, if_neg (by omega), if_neg (by omega), if_neg (by omega)]

theorem decodeMode_of_wide (hb : (headerBits h).toInt < -32 ∨ 32 < (headerBits h).toInt) :
    decodeMode h = .error .unsupportedWidth := by
  have hmax : (Config.wMax : Int) = 32 := rfl
  rw [decodeMode, if_neg (by omega), if_pos (by omega)]

end DecodeEquations

/-- Settles O5: the fields are read from their bytes, and the checks are those of `decodeHeader` and `decodeMode`. -/
theorem headerBytesDecode : Obligations.HeaderBytesDecode := by
  intro magic hdr hlen
  have hmagic : headerMagic (headerWord hdr) = magic ↔ beNat (hdr.take 4) = magic.toNat := by
    rw [← headerMagic_headerWord hlen, BitVec.toNat_inj]
  simp only [← headerBase_headerWord hlen, ← headerBits_headerWord hlen, ← headerFlags_headerWord hlen,
    ← headerReserved_headerWord hlen, ← hmagic]
  refine ⟨fun hm => if_pos fun he => hm (hmagic.1 he), fun hm h0 => ?_, fun hm h0 h1 => ?_, fun hm h0 h1 => ?_⟩
  · simp only [decodeHeader, hm, h0, ne_eq, not_true_eq_false, if_false, if_true]
  · simp only [decodeHeader, hm, h0, h1, ne_eq, not_true_eq_false, Bool.false_eq_true, if_false, if_true]
  · rw [decodeHeader_of_legal hm h0 h1]
    exact ⟨decodeMode_of_zero, decodeMode_of_pos, decodeMode_of_neg, decodeMode_of_wide⟩

end Sys2Proof

/-! MemRead by its outcomes, and the exceptions of the two fetches that rest on it (`20_memory.md` R44,
`41_block_decode.md` R121, R128). -/

namespace Sys2Proof.Machine

theorem memRead_shortRead {src : Source} {a n : Nat} (h : src.len.toNat < a + n) :
    memRead src a n = .error (.shortRead, a) := by
  simp only [memRead, if_pos h]

theorem memRead_ioFailure {src : Source} {a n m : Nat} (h : a + n ≤ src.len.toNat)
    (hm : leastIoFault src.ioFault a n = some m) : memRead src a n = .error (.ioFailure, m) := by
  simp only [memRead, if_neg (Nat.not_lt.2 h), hm]

/-- Settles O8: each outcome of MemRead, the fault found being the least in the range. -/
theorem memReadAnswers : Obligations.MemReadAnswers := by
  intro src a n hwf
  refine ⟨memRead_shortRead, fun hle ⟨x, hx, hax, hxn⟩ => ?_, fun hr => by
    rw [memRead_of_readable hr, Memory.readRange_eq hwf]⟩
  rcases hm : leastIoFault src.ioFault a n with _ | m
  · exact absurd ⟨hax, hxn⟩ (leastIoFault_none.1 hm x hx)
  · obtain ⟨hmem, ha, hn, hmin⟩ := leastIoFault_some.1 hm
    exact ⟨m, hmem, ha, hn, hmin, memRead_ioFailure hle hm⟩

/-- A header fetch that MemRead fails raises what MemRead answers, in the state of the turn. -/
theorem step_of_headerUnread {s u : State} {e : Cause × Nat} (hu : UnitTurnIn s u) (hst : u.st = .busy)
    (hp : u.phase = .block) (hm : memRead u.src u.cur.toNat 16 = .error e) :
    step s = .next (raise e.1 e.2 u) := by
  have hm : memRead u.src u.cur.toNat Config.headerBytes = .error e := hm
  rw [step_of_unitTurn hu]
  simp only [unitTurn, hst, hp, blockTurn, hm, Turn.outcome]

/-- Settles O24: the header fetch is one MemRead of 16 bytes at CUR. -/
theorem headerFetchRaises : Obligations.HeaderFetchRaises := fun _ _ hu hst hp =>
  ⟨fun hshort => step_of_headerUnread hu hst hp (memRead_shortRead hshort), fun hle _ hmem ha hn hmin =>
    step_of_headerUnread hu hst hp (memRead_ioFailure hle (leastIoFault_some.2 ⟨hmem, ha, hn, hmin⟩))⟩

/-- A payload fetch that MemRead fails raises what MemRead answers, the header consumed and S as it was. -/
theorem exec_of_payloadUnread {i : Instr} {s : State} {e : Cause} {m : Nat} (hi : isStreamInstr i = true)
    (hd : (∃ base flags r, i = .raw base flags r) → rawDepthLegal s.bitsPerSample = true)
    (hcur : s.cur.toNat + 16 < 2 ^ 64) (hlt : m < 2 ^ 64)
    (hm : memRead s.src (s.cur.toNat + 16) (payloadBytes i s) = .error (e, m)) :
    ∃ t, exec i s = .next t ∧ t.st = .error ∧ t.errCode = e.code ∧ t.errAddr.toNat = m
      ∧ t.errGroup = BitVec.ofNat 32 s.gIdx ∧ t.errChan = BitVec.ofNat 16 s.cIdx
      ∧ t.cur.toNat = s.cur.toNat + 16 ∧ (∀ c, channel t.ch c = []) ∧ t.sbuf = s.sbuf := by
  have hstart : (streamStart i s).cur.toNat = s.cur.toNat + 16 := by
    rw [streamStart_cur hi, BitVec.toNat_add]
    exact Nat.mod_eq_of_lt hcur
  rw [← hstart, ← streamStart_payLen hi] at hm
  rcases exec_stream_cases hi s with ⟨base, flags, r, rfl, hbad, -⟩ | ⟨-, ⟨x, hx, ht⟩ | ⟨bs, hx, -⟩⟩
  · exact absurd (hd ⟨base, flags, r, rfl⟩) (by simp [hbad])
  · cases hx.symm.trans hm
    exact ⟨_, ht, rfl, rfl, Nat.mod_eq_of_lt hlt, by simp, by simp, by simp [hstart], fun _ => rfl, by simp⟩
  · cases hx.symm.trans hm

/-- Settles O23: the payload fetch is one MemRead of the payload's length at the byte after the header. -/
theorem payloadFetchRaises : Obligations.PayloadFetchRaises := by
  intro i s hi _ hd hle
  have hcur : s.cur.toNat + 16 < 2 ^ 64 := hle.trans_lt s.src.len.isLt
  refine ⟨fun hshort => exec_of_payloadUnread hi hd hcur hcur (memRead_shortRead hshort),
    fun hfit m hmem ha hn hmin => exec_of_payloadUnread hi hd hcur ?_
      (memRead_ioFailure hfit (leastIoFault_some.2 ⟨hmem, ha, hn, hmin⟩))⟩
  exact hn.trans (hfit.trans_lt s.src.len.isLt)

end Sys2Proof.Machine

/-! Who writes SRC, and the consumer of OUT (`20_memory.md` R41 to R44, R50, `70_reset_and_hazards.md` R253, R256). -/

namespace Sys2Proof.Machine

theorem RaisedIn.src_eq {u v : State} (h : RaisedIn u v) : v.src = u.src := by
  cases h <;> simp

/-- The unit stores nothing to SRC (R43). -/
theorem UnitEffect.src_eq {u t : State} (h : UnitEffect u t) : t.src = u.src := by
  cases h with
  | raises e a v hst hv ht => rw [ht, raise_src, hv.src_eq]
  | quiet ht | seeks _ _ ht | completes _ _ _ _ _ _ _ _ ht | passes _ _ _ _ _ _ ht | emits _ _ _ _ ht | ends _ ht =>
    simp [ht]

/-- No host event changes SRC while BUSY (R42, R256). -/
theorem HostEffect.src_eq_of_busy {u t : State} (h : HostEffect u t) (hbusy : u.st = .busy) : t.src = u.src := by
  cases h with
  | source src hst hsrc ht => exact absurd hbusy hst
  | hardware ht => rw [ht]; rfl
  | nothing ht | configError ht | opens _ ht | resets ht | configures _ _ _ _ _ _ ht | loads _ _ _ _ ht
  | consumes _ _ _ ht => simp [ht]

/-- Settles O9: the unit never stores to SRC, and the host's changes of it are refused while BUSY. -/
theorem sourceFixedWhileBusy : Obligations.SourceFixedWhileBusy := by
  intro s t hst h
  have hsrc : t.src = s.src := by
    rcases step_cases h with ⟨-, hu⟩ | ⟨es, -, hu⟩ | ⟨e, es, -, -, he⟩
    · exact hu.effect.src_eq
    · exact hu.effect.src_eq
    · exact he.effect.src_eq_of_busy hst
  simp [hsrc]

section SourceEvents
variable {s : State} {es : List HostEvent}

theorem changeSource_of_busy (src : Source) (h : s.st = .busy) :
    changeSource src { s with host := es } = .refused .sourceChangedDuringSession := if_pos h

theorem changeSource_of_not_busy (src : Source) (h : s.st ≠ .busy) :
    changeSource src { s with host := es } = .next { s with host := es, src := src } := if_neg h

theorem step_of_presentSource {bytes : List Byte} (h : s.host = .presentSource bytes :: es)
    (hlen : bytes.length < 2 ^ 64) :
    step s = changeSource { mem := Memory.ofBytes 0 bytes, len := BitVec.ofNat 64 bytes.length, ioFault := [] }
      { s with host := es } :=
  (step_of_host h).trans (if_pos hlen)

theorem step_of_storeSource {a : Nat} {b : Byte} (h : s.host = .storeSource a b :: es) (ha : a < s.src.len.toNat) :
    step s = changeSource { s.src with mem := Memory.write s.src.mem a b } { s with host := es } :=
  (step_of_host h).trans (if_pos ha)

theorem step_of_setIoFault {a : Nat} {y : Bool} (h : s.host = .setIoFault a y :: es) :
    step s = changeSource { s.src with ioFault := setFaultAt s.src.ioFault a y } { s with host := es } :=
  step_of_host h

end SourceEvents

/-- The bytes a host presents are what SRC then holds (R253). -/
theorem getElem?_eq_read_ofBytes {bytes : List Byte} {i : Nat} (hi : i < bytes.length) :
    bytes[i]? = some (Memory.read (Memory.ofBytes 0 bytes) i) := by
  have h := Memory.read_ofBytes 0 bytes i
  rw [Nat.zero_add] at h
  rw [h, List.getD_eq_getElem?_getD, List.getElem?_eq_getElem hi, Option.getD_some]

/-- Settles O10: each event on SRC is one `changeSource`, whose new bytes and faults read back. -/
theorem hostWritesSource : Obligations.HostWritesSource := by
  intro s es hwf
  refine ⟨fun bytes h hlen => ?_, fun a b h ha => ?_, fun a b h ha => ?_, fun bytes h hlen => ?_,
    fun a y h hrise => ?_⟩
  · rw [step_of_presentSource h hlen]
    refine ⟨changeSource_of_busy _, fun hst => ⟨_, changeSource_of_not_busy _ hst, Nat.mod_eq_of_lt hlen, rfl,
      fun i => getElem?_eq_read_ofBytes, rfl⟩⟩
  · rw [step_of_storeSource h ha]
    refine ⟨changeSource_of_busy _, fun hst => ⟨_, changeSource_of_not_busy _ hst, ?_, fun x hx => ?_, rfl, rfl,
      rfl⟩⟩
    · simp [Memory.read_write hwf]
    · simp [Memory.read_write hwf, hx]
  · exact (step_of_host h).trans (if_neg (Nat.not_lt.2 ha))
  · exact (step_of_host h).trans (if_neg (Nat.not_lt.2 hlen))
  · rw [step_of_setIoFault h]
    refine ⟨changeSource_of_busy _, fun hst => ⟨_, changeSource_of_not_busy _ hst, ?_, fun x hx => ?_, rfl,
      fun _ => rfl, rfl⟩⟩
    · simp [mem_setFaultAt hrise]
    · simp [mem_setFaultAt hrise, hx]

/-- Settles O11: the event `takeOut` reads OUT at TAKEN. -/
theorem outConsumedInOrder : Obligations.OutConsumedInOrder := by
  intro s es h
  have hstep : step s = .next (takeOut { s with host := es }) := step_of_host h
  refine ⟨fun v hv => ?_, fun hlen => ?_⟩
  · simp only [hstep, takeOut, hv]
  · simp only [hstep, takeOut, List.getElem?_eq_none hlen]

end Sys2Proof.Machine

/-! The frame of the stream instructions, and that the unit's turn never stops (`60_exceptions.md` R210,
`20_memory.md` R49). -/

namespace Sys2Proof.Machine

/-- Settles O21: field by field over all a stream instruction can come to; only a raise makes STATE ERROR. -/
theorem streamFrame : Obligations.StreamFrame := by
  intro i s t hi h
  rcases exec_stream_cases hi s with ⟨base, flags, r, rfl, -, hx⟩ | ⟨-, ⟨e, -, hx⟩ | ⟨bs, -, hx⟩⟩
  · obtain rfl := Host.Outcome.next.inj (hx.symm.trans h)
    simp
  · obtain rfl := Host.Outcome.next.inj (hx.symm.trans h)
    simp
  · obtain rfl : completeBlock i bs s = t := Host.Outcome.next.inj (hx.symm.trans h)
    have hunp : (∃ base flags r, i = .raw base flags r) → (completeBlock i bs s).unp = s.unp := by
      rintro ⟨base, flags, r, rfl⟩
      simp [streamDecode]
    have hprev : ¬(∃ base w flags r, i = .delta base w flags r) →
        (completeBlock i bs s).prev = s.prev ∧ (completeBlock i bs s).ovf = s.ovf := by
      intro hdelta
      cases i with
      | delta base w flags r => exact absurd ⟨base, w, flags, r, rfl⟩ hdelta
      | raw | trunc | start | reset => simp [streamDecode]
    simpa [-completeBlock_unp, -completeBlock_prev, -completeBlock_ovf] using And.intro hunp hprev

/-- A frame still to be emitted exists: CHECK found every channel long enough (`42_assembler.md` R159). -/
theorem State.Running.interleave_next {u : State} (h : u.Running) (hp : u.phase = .interleave) :
    ∃ t, interleave u = .next t := by
  unfold interleave
  split
  · next hf =>
    rw [frame_of_long fun i hi => hf.trans_le (h.checked hp i hi)]
    exact ⟨_, rfl⟩
  · exact ⟨_, rfl⟩

theorem blockTurn_next (u : State) : ∃ t, (blockTurn u).outcome = .next t := by
  unfold blockTurn
  split
  · exact ⟨_, rfl⟩
  · split
    · exact exec_answers_next _ _
    · exact ⟨_, rfl⟩

theorem unitTurn_next {u : State} (h : u.Consistent) : ∃ t, (unitTurn u).outcome = .next t := by
  unfold unitTurn
  rcases hst : u.st
  case busy =>
    rcases hp : u.phase
    case interleave => exact (h.1 hst).interleave_next hp
    case block => exact blockTurn_next u
    all_goals exact ⟨_, rfl⟩
  all_goals exact ⟨_, rfl⟩

/-- Settles O55: INTERLEAVE alone can stop, and not where CHECK has passed. -/
theorem unitNeverStops : Obligations.UnitNeverStops := by
  rintro s - h (hs | ⟨es, hs⟩)
  · rw [step_of_unitTurn (.inl ⟨hs, rfl⟩)]
    exact unitTurn_next h
  · rw [step_of_unitTurn (.inr ⟨es, hs, rfl⟩)]
    exact unitTurn_next ⟨fun hst => (h.1 hst).pending, h.2⟩

end Sys2Proof.Machine

/-! The host's programming of the unit (`20_memory.md` R57, `70_reset_and_hazards.md` R251 to R253). -/

namespace Sys2Proof.Machine

@[simp] theorem tableEntries_length (file : List Byte) (n a : Nat) : (tableEntries file n a).length = n := by
  induction n generalizing a with
  | zero => rfl
  | succ n ih => rw [tableEntries, List.length_cons, ih]

theorem tableEntries_getElem? (file : List Byte) {n k : Nat} (a : Nat) (hk : k < n) :
    (tableEntries file n a)[k]? = some (BitVec.ofNat 32 (leNat ((file.drop (a + 4 * k)).take 4))) := by
  induction n generalizing a k with
  | zero => omega
  | succ n ih =>
    cases k with
    | zero => rfl
    | succ k =>
      rw [tableEntries, List.getElem?_cons_succ, ih _ (by omega)]
      congr 5
      omega

/-- The table a well-formed preamble and a long enough file give. -/
theorem offsetTable_ok {h : FileHeader} {file : List Byte} {n : Nat} (p : Bool)
    (hle : h.blocksOffset.toNat ≤ h.dataOffset.toNat)
    (hn : h.dataOffset.toNat - h.blocksOffset.toNat = 4 * (n + 1)) (hfile : 120 + 4 * n ≤ file.length) :
    offsetTable p h file =
      .ok (if p then 0 :: tableEntries file n 120 else tableEntries file n 120) := by
  have hblocks : numBlocks h = .ok (n + 1) := by
    rw [numBlocks, if_neg (by omega), hn, Nat.mul_div_cancel_left _ (by decide)]
  have hlong : ¬file.length < Config.fileHeaderBytes + 4 * n := Nat.not_lt.2 hfile
  simp only [offsetTable, hblocks, if_neg hlong]
  rfl

/-- Settles O40: the entries are read one after another from offset 120. -/
theorem offsetTableEnumeration : Obligations.OffsetTableEnumeration := by
  intro p h file n hle hn hfile
  refine ⟨_, offsetTable_ok p hle hn hfile, ?_⟩
  cases p <;> simpa using fun k hk => tableEntries_getElem? file 120 hk

/-! Runs, and the steps of R252. -/

theorem run_step {s u : State} {k : Nat} {o : Host.Outcome State Fault Refusal} (h : step s = .next u)
    (hrun : Sys2Proof.core.run k u = o) : Sys2Proof.core.run (k + 1) s = o := by
  have h : Sys2Proof.core.step s = .next u := h
  simp only [Host.Core.run, h]
  exact hrun

theorem run_append {s u : State} {j k : Nat} {o : Host.Outcome State Fault Refusal}
    (h : Sys2Proof.core.run j s = .next u) (hrun : Sys2Proof.core.run k u = o) : Sys2Proof.core.run (j + k) s = o := by
  induction j generalizing s with
  | zero =>
    cases h
    rwa [Nat.zero_add]
  | succ j ih =>
    simp only [Host.Core.run] at h
    split at h
    · next v hv =>
      rw [Nat.succ_add]
      exact run_step hv (ih h)
    · cases h
    · cases h

/-- OFFTAB after the entries from index `g` on have been written, in their order. -/
def loadTable : Nat → List (BitVec 32) → Offtab → Offtab
  | _, [], t => t
  | g, d :: ds, t => loadTable (g + 1) ds (t.write g d)

theorem loadTable_read_below {g x : Nat} (ds : List (BitVec 32)) (t : Offtab) (hx : x < g) :
    (loadTable g ds t).read x = t.read x := by
  induction ds generalizing g t with
  | nil => rfl
  | cons d ds ih => rw [loadTable, ih _ (by omega), Offtab.read_write, if_neg (by omega)]

/-- The table reads back (R182). -/
theorem loadTable_read {i : Nat} {ds : List (BitVec 32)} (g : Nat) (t : Offtab) (hi : i < ds.length) :
    ds[i]? = some ((loadTable g ds t).read (g + i)) := by
  induction ds generalizing g t i with
  | nil => simp at hi
  | cons d ds ih =>
    cases i with
    | zero =>
      have hlast : (loadTable (g + 1) ds (t.write g d)).read g = d := by
        rw [loadTable_read_below ds _ (Nat.lt_succ_self g), Offtab.read_write, if_pos rfl]
      exact congrArg some hlast.symm
    | succ i =>
      rw [List.getElem?_cons_succ, ih (g + 1) (t.write g d) (by simpa using hi), loadTable, Nat.succ_add_eq_add_succ]

@[simp] theorem tableWrites_length (g : Nat) (ds : List (BitVec 32)) : (tableWrites g ds).length = ds.length := by
  induction ds generalizing g with
  | nil => rfl
  | cons d ds ih => rw [tableWrites, List.length_cons, List.length_cons, ih]

/-- The writes of the table leave it loaded and the events after them pending, and change nothing else. -/
theorem run_tableWrites {s : State} {g : Nat} {ds : List (BitVec 32)} {es : List HostEvent}
    (h : s.host = tableWrites g ds ++ es) (hst : s.st ≠ .busy) (hdepth : g + ds.length ≤ s.par.offtabDepth) :
    Sys2Proof.core.run ds.length s = .next { s with host := es, offtab := loadTable g ds s.offtab } := by
  induction ds generalizing s g with
  | nil =>
    cases s
    cases h
    rfl
  | cons d ds ih =>
    rw [List.length_cons] at hdepth ⊢
    have hg : g < s.par.offtabDepth := by omega
    have hstep : step s = .next { s with host := tableWrites (g + 1) ds ++ es, offtab := s.offtab.write g d } := by
      rw [step_of_write h (by omega) (by simp [busReg_offtab hg]), busReg_offtab hg]
      exact congrArg _ (writeReg_offtab g d hst)
    exact run_step hstep (ih rfl hst (Nat.succ_add_eq_add_succ g ds.length ▸ hdepth))

/-- The configuration writes of R252, outside a session: each takes its register's low bits (R181). -/
theorem run_configWrites {s : State} (hst : s.st = .idle) {c b n g o : BitVec 32} {es : List HostEvent}
    (h : s.host = .write 0x08 c :: .write 0x0C b :: .write 0x10 n :: .write 0x14 g :: .write 0x18 o :: es) :
    Sys2Proof.core.run 5 s =
      .next { s with
        host := es, channels := c.setWidth 16, bitsPerSample := b.setWidth 16, numSamples := n, numGroups := g
        dataOffset := o } := by
  cases s
  cases hst
  exact run_step (step_of_write h rfl nofun) <| run_step (step_of_write rfl rfl nofun) <|
    run_step (step_of_write rfl rfl nofun) <| run_step (step_of_write rfl rfl nofun) <|
    run_step (step_of_write rfl rfl nofun) rfl

/-- A CTRL write whose word is a command runs it. -/
theorem step_of_ctrl {s : State} {d : BitVec 32} {i : Instr} {es : List HostEvent} (h : s.host = .write 0 d :: es)
    (hd : decodeCtrl d = .ok i) : step s = exec i { s with host := es } := by
  rw [step_of_host h]
  simp only [hostTurn, writeTurn, Nat.zero_mod, if_true]
  simp only [busReg, ctrlTurn, hd, Turn.outcome]

theorem programUnit_eq (h : FileHeader) (table : List (BitVec 32)) (file : List Byte) :
    programUnit h table file =
      .write 0x00 2 :: .write 0x08 (h.channels.setWidth 32) :: .write 0x0C (h.bitsPerSample.setWidth 32)
        :: .write 0x10 h.numSamples :: .write 0x14 (BitVec.ofNat 32 table.length) :: .write 0x18 h.dataOffset
        :: (tableWrites 0 table ++ [.presentSource file, .write 0x00 1]) := rfl

theorem programUnit_length (h : FileHeader) (table : List (BitVec 32)) (file : List Byte) :
    (programUnit h table file).length - 1 = 5 + (table.length + 1) + 1 := by
  simp only [programUnit_eq, List.length_cons, List.length_append, List.length_nil, tableWrites_length]
  omega

/-- A 16-bit register reads back from the low bits of the word it was extended to (R181). -/
theorem setWidth_32_16 (x : BitVec 16) : (x.setWidth 32).setWidth 16 = x := by simp

/-- Settles O41: RESET, the configuration, the table and the source, each in the state the one before leaves. -/
theorem hostProgramLoadsUnit : Obligations.HostProgramLoadsUnit := by
  intro s h table file hst hhost hdepth htable hfile
  rw [programUnit_length]
  rw [programUnit_eq] at hhost
  have hreset := (step_of_ctrl hhost (rfl : decodeCtrl 2 = .ok (.reset false 0))).trans
    (exec_reset_of_not_busy (s := { s with host := _ }) false 0 hst)
  refine ⟨_, run_step hreset (run_append (run_configWrites rfl rfl) (run_append (run_tableWrites rfl nofun ?_)
    (run_step ((step_of_presentSource rfl hfile).trans (changeSource_of_not_busy _ nofun)) rfl))), rfl, rfl,
    setWidth_32_16 _, setWidth_32_16 _, rfl, Nat.mod_eq_of_lt htable, rfl, fun g hg => ?_, Nat.mod_eq_of_lt hfile,
    fun a => getElem?_eq_read_ofBytes, rfl⟩
  · exact (Nat.zero_add _).trans_le hdepth
  · exact (loadTable_read 0 _ hg).trans (by rw [Nat.zero_add])

end Sys2Proof.Machine

/-! Encoding and decoding are inverse (`30_encoding.md` R71 to R78, R81, R84, R85). The round trip from the word rests
on this: the fields of a word determine it, so a word is equal to the one encoded from its fields. -/

namespace Sys2Proof

theorem flagsLegal_iff {flags : BitVec 16} :
    flagsLegal flags = true ↔ flags.getLsbD 0 = false ∧ flags.getLsbD 1 = false := by
  simp only [flagsLegal, Bool.and_eq_true, Bool.not_eq_true']

theorem decode_header_eq_ok_iff {magic : BitVec 32} {h : BitVec 128} {i : Instr} :
    decode magic (.header h) = .ok i ↔ decodeHeader magic h = .ok i := by
  rw [decode]
  cases decodeHeader magic h <;> simp

/-- With legal flags a header under its own magic is what its mode decodes to (R81). -/
theorem decode_header_of_mode {h : BitVec 128} {i : Instr} (hf : flagsLegal (headerFlags h) = true)
    (hi : decodeMode h = .ok i) : decode (headerMagic h) (.header h) = .ok i := by
  obtain ⟨h0, h1⟩ := flagsLegal_iff.1 hf
  rw [decode_header_eq_ok_iff, decodeHeader_of_legal rfl h0 h1, hi]

theorem decode_ctrl (magic d : BitVec 32) : decode magic (.ctrl d) = decodeCtrl d := rfl

section CtrlEquations
variable {d : BitVec 32}

theorem decodeCtrl_of_resetBit (h1 : d.getLsbD 1 = true) :
    decodeCtrl d = .ok (.reset (d.getLsbD 0) (d.extractLsb' 2 30)) := if_pos h1

theorem decodeCtrl_of_startBit (h1 : d.getLsbD 1 = false) (h0 : d.getLsbD 0 = true) :
    decodeCtrl d = .ok (.start (d.extractLsb' 2 30)) := by
  rw [decodeCtrl, h1, h0]
  rfl

theorem decodeCtrl_of_noOperation (h1 : d.getLsbD 1 = false) (h0 : d.getLsbD 0 = false) :
    decodeCtrl d = .error .noOperation := by
  rw [decodeCtrl, h1, h0]
  rfl

end CtrlEquations

/-! From the instruction to its word and back. -/

/-- A legal width fits in the 16 bits of `bits` with either sign (R75). -/
theorem toInt_ofInt_width {b : Int} (hlo : -32 ≤ b) (hhi : b ≤ 32) : (BitVec.ofInt 16 b).toInt = b := by
  rw [BitVec.toInt_ofInt]
  exact Int.bmod_eq_of_le (by omega) (by omega)

/-- Settles O3: the fields read back (`FieldsReadBack`), and `bits` is 0, w or −w. -/
theorem decodeEncodeRoundTrip : Obligations.DecodeEncodeRoundTrip := by
  intro magic i hi
  cases i with
  | raw base flags reserved =>
    obtain ⟨h, henc, rfl, hbits, rfl, rfl, rfl⟩ := Laws.FieldsReadBack.raw base flags reserved magic
    have hint : (headerBits h).toInt = 0 := hbits ▸ rfl
    rw [henc, decode_header_of_mode hi (decodeMode_of_zero hint)]
  | delta base w flags reserved =>
    obtain ⟨h, henc, rfl, hbits, rfl, rfl, rfl⟩ := Laws.FieldsReadBack.delta base w flags reserved magic
    obtain ⟨hw, hf⟩ := Bool.and_eq_true_iff.1 hi
    obtain ⟨hlo, hhi⟩ := widthLegal_iff.1 hw
    have hint : (headerBits h).toInt = w := by
      rw [hbits, ← BitVec.ofInt_natCast, toInt_ofInt_width (by omega) (by omega)]
    rw [henc, decode_header_of_mode hf (decodeMode_of_pos (by omega) (by omega)), hint, Int.toNat_natCast]
  | trunc base w flags reserved =>
    obtain ⟨h, henc, rfl, hbits, rfl, rfl, rfl⟩ := Laws.FieldsReadBack.trunc base w flags reserved magic
    obtain ⟨hw, hf⟩ := Bool.and_eq_true_iff.1 hi
    obtain ⟨hlo, hhi⟩ := widthLegal_iff.1 hw
    have hint : (headerBits h).toInt = -w := by rw [hbits, toInt_ofInt_width (by omega) (by omega)]
    rw [henc, decode_header_of_mode hf (decodeMode_of_neg (by omega) (by omega)), hint, neg_neg, Int.toNat_natCast]
  | start ignored =>
    obtain ⟨d, henc, h1, h0, rfl⟩ := Laws.FieldsReadBack.start ignored magic
    rw [henc, decode_ctrl, decodeCtrl_of_startBit h1 h0]
  | reset startBit ignored =>
    obtain ⟨d, henc, h1, rfl, rfl⟩ := Laws.FieldsReadBack.reset startBit ignored magic
    rw [henc, decode_ctrl, decodeCtrl_of_resetBit h1]

/-! From the word to its instruction and back. -/

/-- A bit of the magic's bytes, where the big-endian reading puts it (R73). -/
theorem getLsbD_of_lt_32 (h : BitVec 128) {j : Nat} (hj : j < 32) :
    h.getLsbD j = (headerMagic h).getLsbD (8 * (3 - j / 8) + j % 8) := by
  interval_cases j <;> simp [headerMagic, headerByte]

/-- A bit of `x` inside a field is the field's bit. -/
theorem getLsbD_eq_extractLsb' {n : Nat} (x : BitVec n) {a w j : Nat} (ha : a ≤ j) (hj : j < a + w) :
    x.getLsbD j = (x.extractLsb' a w).getLsbD (j - a) := by
  rw [BitVec.getLsbD_extractLsb', Nat.add_sub_cancel' ha, decide_eq_true (by omega), Bool.true_and]

/-- The fields of a header determine it: they leave out no bit (R71). -/
theorem header_ext {h h' : BitVec 128} (hmagic : headerMagic h = headerMagic h') (hbase : headerBase h = headerBase h')
    (hbits : headerBits h = headerBits h') (hflags : headerFlags h = headerFlags h')
    (hreserved : headerReserved h = headerReserved h') : h = h' := by
  apply BitVec.eq_of_getLsbD_eq
  intro j hj
  by_cases h32 : j < 32
  · rw [getLsbD_of_lt_32 h h32, getLsbD_of_lt_32 h' h32, hmagic]
  have field {a w : Nat} (ha : a ≤ j) (hw : j < a + w) (he : h.extractLsb' a w = h'.extractLsb' a w) :
      h.getLsbD j = h'.getLsbD j := by
    rw [getLsbD_eq_extractLsb' h ha hw, getLsbD_eq_extractLsb' h' ha hw, he]
  by_cases h64 : j < 64
  · exact field (by omega) (by omega) hbase
  by_cases h80 : j < 80
  · exact field (by omega) (by omega) hbits
  by_cases h96 : j < 96
  · exact field (by omega) (by omega) hflags
  · exact field (by omega) (by omega) hreserved

theorem encodeHeader_fields (h : BitVec 128) :
    encodeHeader (headerMagic h) (headerBase h) (headerBits h) (headerFlags h) (headerReserved h) = h :=
  header_ext (by simp) (by simp) (by simp) (by simp) (by simp)

/-- The bits of a CTRL word determine it (R84). -/
theorem encodeCtrl_fields (d : BitVec 32) :
    encodeCtrl (d.getLsbD 1) (d.getLsbD 0) (d.extractLsb' 2 30) = d := by
  apply BitVec.eq_of_getLsbD_eq
  intro j hj
  match j with
  | 0 => simp
  | 1 => simp
  | j + 2 =>
    rw [getLsbD_eq_extractLsb' (a := 2) (w := 30) _ (by omega) (by omega), encodeCtrl_ignored,
      ← getLsbD_eq_extractLsb' d (by omega) (by omega)]

/-- The header checks passed: the magic is BLOCK_MAGIC and the mode decides (R81). -/
theorem decodeMode_of_decodeHeader_ok {magic : BitVec 32} {h : BitVec 128} {i : Instr}
    (hi : decodeHeader magic h = .ok i) : headerMagic h = magic ∧ decodeMode h = .ok i := by
  unfold decodeHeader at hi
  split at hi
  · cases hi
  · next hm =>
    split at hi
    · cases hi
    · split at hi
      · cases hi
      · exact ⟨not_not.1 hm, hi⟩

/-- The instruction the mode gives has all of the header in it. -/
theorem encode_of_decodeMode {h : BitVec 128} {i : Instr} (hi : decodeMode h = .ok i) :
    encode (headerMagic h) i = .header h := by
  have encode_bits {bits : BitVec 16} (hb : bits = headerBits h) : InstrWord.header
      (encodeHeader (headerMagic h) (headerBase h) bits (headerFlags h) (headerReserved h)) = .header h := by
    rw [hb, encodeHeader_fields]
  have hround := BitVec.ofInt_toInt (x := headerBits h)
  obtain hb | hb | hb | hb : (headerBits h).toInt = 0 ∨ (1 ≤ (headerBits h).toInt ∧ (headerBits h).toInt ≤ 32) ∨
      (-32 ≤ (headerBits h).toInt ∧ (headerBits h).toInt ≤ -1) ∨
      ((headerBits h).toInt < -32 ∨ 32 < (headerBits h).toInt) := by omega
  · cases (decodeMode_of_zero hb).symm.trans hi
    exact encode_bits (by rw [← hround, hb]; rfl)
  · cases (decodeMode_of_pos hb.1 hb.2).symm.trans hi
    exact encode_bits (by rw [← BitVec.ofInt_natCast, Int.toNat_of_nonneg (by omega), hround])
  · cases (decodeMode_of_neg hb.1 hb.2).symm.trans hi
    exact encode_bits (by rw [Int.toNat_of_nonneg (by omega), neg_neg, hround])
  · cases (decodeMode_of_wide hb).symm.trans hi

theorem wellFormed_of_decodeCtrl {d : BitVec 32} {i : Instr} (hi : decodeCtrl d = .ok i) : i.wellFormed = true := by
  obtain ⟨_, rfl⟩ | ⟨_, _, rfl⟩ := decodeCtrl_ok hi <;> rfl

/-- A command has all of its CTRL word in it. -/
theorem encode_of_decodeCtrl (magic : BitVec 32) {d : BitVec 32} {i : Instr} (hi : decodeCtrl d = .ok i) :
    encode magic i = .ctrl d := by
  rcases h1 : d.getLsbD 1 with _ | _
  · rcases h0 : d.getLsbD 0 with _ | _
    · cases (decodeCtrl_of_noOperation h1 h0).symm.trans hi
    · cases (decodeCtrl_of_startBit h1 h0).symm.trans hi
      rw [encode, ← h1, ← h0, encodeCtrl_fields]
  · cases (decodeCtrl_of_resetBit h1).symm.trans hi
    rw [encode, ← h1, encodeCtrl_fields]

/-- Settles O4: a word is equal to the one encoded from its fields, and the instruction holds them all. -/
theorem encodeDecodeRoundTrip : Obligations.EncodeDecodeRoundTrip := by
  intro magic x i hi
  cases x with
  | header h =>
    have hd := decode_header_eq_ok_iff.1 hi
    obtain ⟨rfl, hmode⟩ := decodeMode_of_decodeHeader_ok hd
    exact ⟨(decodeHeader_ok hd).2, encode_of_decodeMode hmode⟩
  | ctrl d => exact ⟨wellFormed_of_decodeCtrl hi, encode_of_decodeCtrl magic hi⟩

/-- Settles O6: the three equations of the CTRL decoder; RESET and START do not read the ignored bits. -/
theorem ctrlWordDecode : Obligations.CtrlWordDecode := fun _ =>
  ⟨fun h1 => ⟨_, decodeCtrl_of_resetBit h1⟩, fun h1 h0 => ⟨_, decodeCtrl_of_startBit h1 h0⟩,
    decodeCtrl_of_noOperation, fun _ _ _ _ => ⟨rfl, rfl⟩⟩

/-- Settles O7: seven words, each decoded by evaluation. -/
theorem vectorWordsDecode : Obligations.VectorWordsDecode := by
  unfold Obligations.VectorWordsDecode
  decide

namespace Machine

/-- A CTRL write that is no operation is only taken off the list (R186). -/
theorem step_of_noOperation {s : State} {d : BitVec 32} {es : List HostEvent} {e : Rejection}
    (h : s.host = .write 0 d :: es) (hd : decodeCtrl d = .error e) : step s = .next { s with host := es } := by
  rw [step_of_host h]
  simp only [hostTurn, writeTurn, Nat.zero_mod, if_true]
  simp only [busReg, ctrlTurn, hd, Turn.outcome]

/-- Settles O46: a CTRL write is a command or no operation, as its word decodes. -/
theorem stepRunsHostCommand : Obligations.StepRunsHostCommand := fun _ _ _ h =>
  ⟨fun _ hd => step_of_ctrl h hd, fun h1 h0 => step_of_noOperation h (decodeCtrl_of_noOperation h1 h0)⟩

end Machine
end Sys2Proof

/-! SEXT, FEED and EXTRACT, and UNPACK on a payload (`40_unpacker.md` R102 to R107). -/

namespace Sys2Proof.Machine

theorem msb_ofNat_field {field w : Nat} (hpos : 1 ≤ w) : (BitVec.ofNat w field).msb = field.testBit (w - 1) := by
  rw [BitVec.msb_eq_getLsbD_last, BitVec.getLsbD_ofNat, decide_eq_true (by omega), Bool.true_and]

section Sext
variable {field w : Nat} (hfield : field < 2 ^ w)
include hfield

/-- The bits of SEXT (R104): those of the field below w, and its sign bit from w on. -/
theorem sext32_getLsbD {i : Nat} (hi : i < 32) :
    (sext32 field w).getLsbD i = if i < w then field.testBit i else field.testBit (w - 1) := by
  have hhigh : w ≤ i → field.testBit i = false := fun hwi =>
    Nat.testBit_lt_two_pow (hfield.trans_le (Nat.pow_le_pow_right (by decide) hwi))
  have hones : ∀ j, Nat.testBit 0xFFFFFFFF j = decide (j < 32) := Nat.testBit_two_pow_sub_one 32
  have hlow : i - w < 32 := by omega
  rw [sext32]
  split
  · next hsign =>
    simp only [BitVec.getLsbD_ofNat, Nat.testBit_or, Nat.testBit_and, Nat.testBit_shiftLeft, hones, hsign]
    split
    · next hiw => simp [hi, Nat.not_le.2 hiw]
    · next hiw => simp [hi, hlow, Nat.le_of_not_lt hiw]
  · next hsign =>
    rw [BitVec.getLsbD_ofNat, decide_eq_true hi, Bool.true_and]
    split
    · rfl
    · next hiw => rw [hhigh (Nat.le_of_not_lt hiw), Bool.eq_false_of_not_eq_true hsign]

/-- SEXT is the sign extension of the field as a w-bit word (R104). -/
theorem sext32_eq_signExtend (hpos : 1 ≤ w) : sext32 field w = (BitVec.ofNat w field).signExtend 32 := by
  refine BitVec.eq_of_getLsbD_eq fun i hi => ?_
  rw [sext32_getLsbD hfield hi, BitVec.getLsbD_signExtend, msb_ofNat_field hpos, decide_eq_true hi,
    Bool.true_and]
  split
  · next hiw => rw [BitVec.getLsbD_ofNat, decide_eq_true hiw, Bool.true_and]
  · rfl

theorem sext32_toInt (hpos : 1 ≤ w) (hw : w ≤ 32) : (sext32 field w).toInt = (BitVec.ofNat w field).toInt := by
  rw [sext32_eq_signExtend hfield hpos, BitVec.toInt_signExtend_of_le hw]

end Sext

/-- Settles O12: SEXT reads the field as a w-bit word does, whose sign bit has the weight -2^(w - 1). -/
theorem sextIsTwosComplement : Obligations.SextIsTwosComplement := by
  intro field w hpos hw hfield
  rw [sext32_toInt hfield hpos hw]
  have hval := BitVec.toInt_eq_msb_cond (BitVec.ofNat w field)
  rw [msb_ofNat_field hpos, BitVec.toNat_ofNat, Nat.mod_eq_of_lt hfield] at hval
  exact ⟨fun hsign => by simp [hval, hsign], fun hsign => by simp [hval, hsign], BitVec.le_toInt _,
    Int.le_sub_one_of_lt BitVec.toInt_lt⟩

/-- Settles O13: the accumulator by its two equations, the counters by definition. -/
theorem feedAndExtractExact : Obligations.FeedAndExtractExact :=
  ⟨fun _ _ hn hacc => ⟨feed_acc hn hacc, rfl, rfl, rfl⟩,
    fun w u _ hw => ⟨extractField_eq u hw, extractRest_acc w u, rfl, rfl, rfl⟩⟩

/-- The 512 packed values of a payload read no byte from 64 × w on. -/
theorem packedValue_take {w k : Nat} {pay : List Byte} (hlen : 64 * w ≤ pay.length) (hk : k < 512) :
    packedValue (pay.take (64 * w)) w k = packedValue pay w k := by
  have hin : k * w + w ≤ 8 * (pay.take (64 * w)).length := by
    have hle : (k + 1) * w ≤ 512 * w := Nat.mul_le_mul_right w hk
    rw [List.length_take, Nat.min_eq_left hlen]
    rw [Nat.succ_mul] at hle
    omega
  rw [packedValue, packedValue, ← packedField_append (pay.drop (64 * w)) hin, List.take_append_drop]

/-- Settles O14: the loop yields the closed form on all of PAY, whose fields lie in its first 64 × w bytes. -/
theorem unpackLoopIsClosedForm : Obligations.UnpackLoopIsClosedForm := by
  intro w pay _ hw hlen
  rw [unpack_samples hw hlen]
  exact List.map_congr_left fun k hk => (packedValue_take hlen (List.mem_range.1 hk)).symm

/-- Settles O15: the state of the unpacker at its exit. -/
theorem unpackConsumesPayloadExactly : Obligations.UnpackConsumesPayloadExactly := by
  intro w pay _ hw hlen
  rw [unpack_exit hw hlen]
  exact ⟨rfl, rfl, rfl, rfl⟩

end Sys2Proof.Machine

/-! The unit's turn by its phase, as equations of `step` (`42_assembler.md` R150, `41_block_decode.md` R120 to R126). -/

namespace Sys2Proof.Machine

section UnitTurns
variable {s u : State} (hu : UnitTurnIn s u) (hst : u.st = .busy)
include hu hst

theorem step_of_seek (hp : u.phase = .seek) : step s = .next (seek u) := by
  rw [step_of_unitTurn hu]
  simp only [unitTurn, hst, hp, Turn.outcome]

theorem step_of_check (hp : u.phase = .check) : step s = .next (check u) := by
  rw [step_of_unitTurn hu]
  simp only [unitTurn, hst, hp, Turn.outcome]

theorem step_of_interleave (hp : u.phase = .interleave) : step s = interleave u := by
  rw [step_of_unitTurn hu]
  simp only [unitTurn, hst, hp, Turn.outcome]

theorem step_of_block (hp : u.phase = .block) : step s = (blockTurn u).outcome := by
  rw [step_of_unitTurn hu]
  simp only [unitTurn, hst, hp]

end UnitTurns

section HeaderRead
variable {u : State} {hdr : List Byte} (hm : memRead u.src u.cur.toNat 16 = .ok hdr)
include hm

theorem blockTurn_of_rejected {f : HeaderFault} (hd : decodeHeader u.par.blockMagic (headerWord hdr) = .error f) :
    (blockTurn u).outcome = .next (rejectHeader f (headerWord hdr) u) := by
  have hm : memRead u.src u.cur.toNat Config.headerBytes = .ok hdr := hm
  simp only [blockTurn, hm, hd, Turn.outcome]

theorem blockTurn_of_decoded {i : Instr} (hd : decodeHeader u.par.blockMagic (headerWord hdr) = .ok i) :
    (blockTurn u).outcome = exec i u := by
  have hm : memRead u.src u.cur.toNat Config.headerBytes = .ok hdr := hm
  simp only [blockTurn, hm, hd, Turn.outcome]

end HeaderRead

/-- Settles O45: the header fetch and the decoder hand the instruction to `exec` in the state of the turn. -/
theorem stepRunsStreamInstruction : Obligations.StepRunsStreamInstruction := by
  intro s u hdr i hu hst hp hm hd
  rw [step_of_block hu hst hp, blockTurn_of_decoded hm hd]

/-! A header that is no instruction (`41_block_decode.md` R122 to R126). -/

/-- A wrong magic raises before the header is latched (R122). -/
theorem rejectHeader_of_signature (h : BitVec 128) (s : State) :
    rejectHeader .invalidBlockSignature h s = raise .invalidBlockSignature s.cur.toNat (consumeHeader s) := rfl

/-- Any other fault raises with the header latched (R123 to R126). -/
theorem rejectHeader_of_ne_signature {f : HeaderFault} (hf : f ≠ .invalidBlockSignature) (h : BitVec 128)
    (s : State) :
    rejectHeader f h s =
      raise (HeaderFault.cause f) s.cur.toNat (enterBlock (headerBase h) (headerBits h) (headerFlags h) s) := by
  simp only [rejectHeader, if_neg hf]
  rfl

/-- Settles O25: the turn is `rejectHeader`, which latches the header's fields unless the magic is wrong. -/
theorem faultyHeaderRaises : Obligations.FaultyHeaderRaises := by
  intro s u hdr f hu hst hp hm hd
  obtain ⟨⟨hend, -⟩, hhdr⟩ := memRead_ok hm
  have hlt : u.cur.toNat + 16 < 2 ^ 64 := hend.trans_lt u.src.len.isLt
  have hlen : hdr.length = 16 := hhdr ▸ Memory.readRange_length ..
  refine ⟨_, (step_of_block hu hst hp).trans (blockTurn_of_rejected hm hd), ?_⟩
  by_cases hf : f = .invalidBlockSignature
  · subst hf
    simpa [rejectHeader_of_signature, Cause.code, channel] using hlt
  · rw [rejectHeader_of_ne_signature hf, headerBase_headerWord hlen, headerBits_headerWord hlen,
      headerFlags_headerWord hlen]
    cases f with
    | invalidBlockSignature => exact absurd rfl hf
    | unsupportedChannelEncoding | unsupportedSampleFormat | unsupportedWidth =>
      simpa [HeaderFault.cause, Cause.code, channel] using hlt

end Sys2Proof.Machine

/-! The stream instructions as equations, and what a completed block does to the channel buffers and the sequencer
(`41_block_decode.md` R120, R127, R135, `42_assembler.md` R150, R154 to R157). -/

namespace Sys2Proof.Machine

theorem exec_raw_of_depthIllegal {base : BitVec 32} {flags : BitVec 16} {r : BitVec 32} {s : State}
    (h : rawDepthLegal s.bitsPerSample = false) :
    exec (.raw base flags r) s = .next (raise .unsupportedBitDepth s.cur.toNat (enterBlock base 0 flags s)) := by
  simp only [exec, execRaw, h, Bool.false_eq_true, if_false]

/-- Settles O22: a depth that is not listed is illegal, and the exception is raised in the state with the header
consumed and latched. -/
theorem rawOtherDepthRaises : Obligations.RawOtherDepthRaises := by
  intro base flags r s h8 h16 h24 h32
  have hbad : rawDepthLegal s.bitsPerSample = false := by
    rw [Bool.eq_false_iff, ne_eq, rawDepthLegal_iff]
    simp only [h8, h16, h24, h32, or_self, not_false_eq_true]
  have haddr : BitVec.ofNat 64 s.cur.toNat = s.cur := by simp
  rw [exec_raw_of_depthIllegal hbad, raise, haddr]
  rfl

section StreamEquations
variable {i : Instr} {s : State} (hi : isStreamInstr i = true)
  (hd : (∃ base flags r, i = .raw base flags r) → rawDepthLegal s.bitsPerSample = true)
include hi hd

/-- Past the depth check a stream instruction is its payload fetch and what follows it. -/
theorem exec_eq_runBlock : exec i s = runBlock (streamDecode i) (streamStart i s) := by
  cases i with
  | raw base flags r => simp only [exec, execRaw, hd ⟨base, flags, r, rfl⟩, if_true, streamDecode, streamStart]
  | delta base w flags r => rfl
  | trunc base w flags r => rfl
  | start x => simp [isStreamInstr] at hi
  | reset b x => simp [isStreamInstr] at hi

theorem exec_of_fetchError {e : Cause × Nat}
    (hm : memRead s.src (streamStart i s).cur.toNat (streamStart i s).payLen = .error e) :
    exec i s = .next (raise e.1 e.2 (streamStart i s)) := by
  have hfetch : fetchPayload (streamStart i s) = .error e := fetchPayload_error.2 (by rwa [streamStart_src])
  rw [exec_eq_runBlock hi hd, runBlock, hfetch]

theorem exec_of_fetchOk {bs : List Byte}
    (hm : memRead s.src (streamStart i s).cur.toNat (streamStart i s).payLen = .ok bs) :
    exec i s = .next (completeBlock i bs s) := by
  have hfetch : fetchPayload (streamStart i s) = .ok (loadPayload bs (streamStart i s)) :=
    fetchPayload_ok.2 ⟨bs, by rwa [streamStart_src], rfl⟩
  rw [exec_eq_runBlock hi hd, runBlock, hfetch]
  rfl

end StreamEquations

theorem StreamReady.depthLegal {i : Instr} {s : State} (h : StreamReady i s) :
    (∃ base flags r, i = .raw base flags r) → rawDepthLegal s.bitsPerSample = true := by
  rintro ⟨base, flags, r, rfl⟩
  exact rawDepthLegal_iff.2 h.2.1

/-- A ready instruction completes, also where SRC is not in canonical form. -/
theorem StreamReady.completes {i : Instr} {s : State} (h : StreamReady i s) :
    ∃ bs, exec i s = .next (completeBlock i bs s) := by
  refine ⟨_, exec_of_fetchOk h.isStream h.depthLegal (memRead_of_readable ?_)⟩
  rw [h.streamStart_cur_toNat, streamStart_payLen h.isStream]
  exact h.2.2

/-- What APPEND_BLOCK keeps of a block, by position in S and as a part of S. -/
theorem keptSamples_eq_keptOfBlock (s : State) (vs : List Sample) :
    keptSamples (inFinalGroup s) s.par.trimPolicy s.overflow 0 vs = keptOfBlock s vs := by
  by_cases hfinal : s.gIdx + 1 = s.numGroups.toNat
  · rw [inFinalGroup, decide_eq_true hfinal, keptOfBlock, if_pos hfinal]
    cases s.par.trimPolicy with
    | dropFirst => exact keptSamples_dropFirst ..
    | dropLast => exact (keptSamples_dropLast ..).trans (keptSamples_keepFirst ..)
    | keepFirst => exact keptSamples_keepFirst ..
  · rw [inFinalGroup, decide_eq_false hfinal, keptOfBlock, if_neg hfinal, keptSamples_all]

theorem completeBlock_channel {i : Instr} {bs : List Byte} {s : State} (h : s.ch.Pairwise (fun a b => a.1 < b.1))
    (c : Nat) :
    channel (completeBlock i bs s).ch c =
      if c = s.cIdx then channel s.ch c ++ keptOfBlock s (completeBlock i bs s).sbuf else channel s.ch c := by
  rw [completeBlock_ch, ← completeBlock_sbuf, keptSamples_eq_keptOfBlock, channel_appendChannel h]
  split
  · next hc => rw [hc]
  · rfl

/-- Settles O20: the block completes; its append reaches CH[C_IDX] alone, and `advanceBlock` moves the sequencer. -/
theorem blockAppendsAndAdvances : Obligations.BlockAppendsAndAdvances := by
  intro i s h hrising
  obtain ⟨bs, hx⟩ := h.completes
  have hfull : (completeBlock i bs s).sbuf.length = 512 := by
    rw [completeBlock_sbuf, streamDecode_full h.isStream]
  refine ⟨_, hx, completeBlock_channel hrising, hfull, completeBlock_cIdx .., fun hmore => ?_, fun hlast => ?_,
    completeBlock_st .., completeBlock_errCode .., completeBlock_errGroup .., completeBlock_errChan ..,
    completeBlock_errAddr ..⟩
  · rw [completeBlock_gIdx, completeBlock_phase, if_pos hmore, if_pos hmore]
    exact ⟨rfl, rfl⟩
  · rw [completeBlock_gIdx, completeBlock_phase, if_neg (Nat.not_lt.2 hlast), if_neg (Nat.not_lt.2 hlast)]
    exact ⟨rfl, rfl⟩

end Sys2Proof.Machine

/-! What a block decodes to, as a function of its own bytes (`41_block_decode.md` R130 to R134, R243). -/

namespace Sys2Proof.Machine

/-- Raw samples lie in the first `n` groups of `b` payload bytes. -/
theorem rawSamples_append {b n : Nat} {p : List Byte} (q : List Byte) (h : n * b ≤ p.length) :
    rawSamples b n (p ++ q) = rawSamples b n p := by
  induction n generalizing p with
  | zero => rfl
  | succ n ih =>
    rw [Nat.succ_mul] at h
    have hb : b ≤ p.length := by omega
    have hrest : n * b ≤ (p.drop b).length := by
      rw [List.length_drop]
      omega
    rw [rawSamples, rawSamples, List.take_append_of_le_length hb, List.drop_append_of_le_length hb, ih hrest]

/-- UNPACK reads its 64 × w payload bytes alone. -/
theorem unpack_samples_append {w : Nat} {p : List Byte} (q : List Byte) (hw : w ≤ 32) (h : 64 * w ≤ p.length) :
    (unpack w (p ++ q)).2 = (unpack w p).2 := by
  have hlong : 64 * w ≤ (p ++ q).length := by
    rw [List.length_append]
    omega
  rw [unpack_samples hw hlong, unpack_samples hw h]
  refine List.map_congr_left fun k hk => ?_
  have hk : k < 512 := List.mem_range.1 hk
  rw [packedValue, packedValue, packedField_append _ (by nlinarith)]

/-- The values a DELTA block adds up: all it unpacks but the last (R134). -/
def usedDeltas (w : Nat) (bs : List Byte) : List Sample := (unpack w bs).2.take (Config.cap - 1)

/-- The samples a stream instruction decodes from its payload bytes `bs`, at the depth `bps`. -/
def blockSamples (i : Instr) (bps : BitVec 16) (bs : List Byte) : List Sample :=
  match i with
  | .raw _ _ _ => rawSamples (rawBytes bps) Config.cap bs
  | .delta base w _ _ => base :: deltaFrom base (usedDeltas w bs)
  | .trunc _ w _ _ => (unpack w bs).2
  | .start _ => []
  | .reset _ _ => []

/-- A stream instruction sets OVF on its payload bytes `bs` (R131, R133). -/
def blockOverflows (i : Instr) (bs : List Byte) : Bool :=
  match i with
  | .raw _ _ _ => false
  | .delta base w _ _ => deltaOverflows base (usedDeltas w bs)
  | .trunc _ _ _ _ => false
  | .start _ => false
  | .reset _ _ => false

/-- The depth matters to RAW alone. -/
theorem blockSamples_congr {i : Instr} {bps bps' : BitVec 16} (bs : List Byte)
    (h : (∃ base flags r, i = .raw base flags r) → bps = bps') : blockSamples i bps bs = blockSamples i bps' bs := by
  cases i with
  | raw base flags r => rw [h ⟨base, flags, r, rfl⟩]
  | delta | trunc | start | reset => rfl

section BlockDecodes
variable {i : Instr} {bs : List Byte} {s : State}

/-- Where DELTA decodes, the deltas it adds up are those of its payload. -/
theorem usedDeltas_loaded {base : BitVec 32} {w : Nat} {flags : BitVec 16} {r : BitVec 32} (hw : w ≤ 32)
    (hlen : bs.length = 64 * w) :
    (unpack (loadPayload bs (streamStart (.delta base w flags r) s)).w
      (loadPayload bs (streamStart (.delta base w flags r) s)).pay).2.take (Config.cap - 1) = usedDeltas w bs := by
  rw [loadPayload_pay, loadPayload_w, streamStart, setMode_w, unpack_samples_append _ hw hlen.ge]
  rfl

/-- DELTA ends with PREV its last sample (R131). -/
theorem completeBlock_prev_of_delta (hdelta : ∃ base w flags r, i = .delta base w flags r) :
    (completeBlock i bs s).prev = (completeBlock i bs s).sbuf.getLastD 0 := by
  obtain ⟨base, w, flags, r, rfl⟩ := hdelta
  rw [completeBlock_prev, completeBlock_sbuf, streamDecode, decodeDelta_prev, decodeDelta_sbuf]
  rfl

variable (hi : isStreamInstr i = true) (hw : i.wellFormed = true) (hlen : bs.length = payloadBytes i s)
include hi hw hlen

/-- S depends on the block's own bytes and, for RAW, the depth (R243). -/
theorem completeBlock_sbuf_eq : (completeBlock i bs s).sbuf = blockSamples i s.bitsPerSample bs := by
  rw [completeBlock_sbuf]
  cases i with
  | raw base flags r =>
    have hn : Config.cap * rawBytes s.bitsPerSample ≤ bs.length := by rw [hlen, Nat.mul_comm]; rfl
    simp only [streamDecode, decodeRaw_sbuf, loadPayload_bitsPerSample, streamStart_bitsPerSample, loadPayload_pay]
    exact rawSamples_append _ hn
  | delta base w flags r =>
    rw [streamDecode, decodeDelta_sbuf, usedDeltas_loaded (delta_width hw).2 hlen]
    rfl
  | trunc base w flags r =>
    rw [streamDecode, decodeTrunc_sbuf, loadPayload_pay, loadPayload_w, streamStart, setMode_w,
      unpack_samples_append _ (trunc_width hw).2 hlen.ge]
    rfl
  | start x => simp [isStreamInstr] at hi
  | reset b x => simp [isStreamInstr] at hi

theorem completeBlock_ovf_eq : (completeBlock i bs s).ovf = (s.ovf || blockOverflows i bs) := by
  rw [completeBlock_ovf]
  cases i with
  | delta base w flags r =>
    rw [streamDecode, decodeDelta_ovf, usedDeltas_loaded (delta_width hw).2 hlen, loadPayload_ovf, streamStart_ovf]
    rfl
  | raw | trunc => simp [streamDecode, blockOverflows]
  | start x => simp [isStreamInstr] at hi
  | reset b x => simp [isStreamInstr] at hi

end BlockDecodes

/-- Settles O26: both blocks complete on the same payload, and S is `blockSamples` of it. -/
theorem blockSamplesDependOnOwnBytes : Obligations.BlockSamplesDependOnOwnBytes := by
  intro i s s' t t' h h' hwf hwf' hdepth hpay hx hx'
  obtain rfl := Host.Outcome.next.inj ((h.exec_eq hwf).symm.trans hx)
  obtain rfl := Host.Outcome.next.inj ((h'.exec_eq hwf').symm.trans hx')
  have hsbuf : (completeBlock i (payloadAt i s) s).sbuf = (completeBlock i (payloadAt i s') s').sbuf := by
    rw [completeBlock_sbuf_eq h.isStream h.1 (payloadAt_length i s),
      completeBlock_sbuf_eq h'.isStream h'.1 (payloadAt_length i s'), hpay, blockSamples_congr _ hdepth]
  refine ⟨hsbuf, fun hdelta => ?_⟩
  rw [completeBlock_prev_of_delta hdelta, completeBlock_prev_of_delta hdelta, hsbuf]

end Sys2Proof.Machine

/-! Two sessions side by side (`70_reset_and_hazards.md` R242): what a session reads of its state decides what it writes
of it, and what it emits. -/

namespace Sys2Proof.Machine

/-! A session in its SEEK phase reads OFFTAB[0 .. G) only (`42_assembler.md` R150). -/

/-- SEEK finds its entry among those a session depends on. -/
def State.SeekInTable (s : State) : Prop := s.st = .busy → s.phase = .seek → s.gIdx < s.numGroups.toNat

theorem State.SeekInTable.unitEffect {s t : State} (h : s.SeekInTable) (hu : UnitEffect s t) : t.SeekInTable := by
  intro hst hp
  cases hu with
  | quiet ht => exact ht ▸ h (ht ▸ hst) (ht ▸ hp)
  | seeks _ _ ht => simp [ht] at hp
  | raises e a v _ _ ht => simp [ht] at hst
  | completes i bs _ hblock _ _ _ _ ht =>
    subst ht
    simp only [completeBlock_phase, hblock] at hp
    split at hp
    · cases hp
    · next hlast =>
      split at hp
      · next hmore => rwa [completeBlock_gIdx, if_neg hlast, completeBlock_numGroups]
      · cases hp
  | passes c x _ _ _ _ ht => simp [ht] at hp
  | emits vs _ hint _ ht => simp [ht, hint] at hp
  | ends _ ht => simp [ht] at hst

theorem openSession_seekInTable (s : State) : (openSession (startClears s)).SeekInTable := by
  intro _ hp
  have hg : s.numGroups ≠ 0 := fun h0 => by simp [h0] at hp
  have hg : s.numGroups.toNat ≠ 0 := fun h0 => hg (BitVec.eq_of_toNat_eq h0)
  simpa using Nat.pos_of_ne_zero hg

/-! Each operation of the unit takes states of one session to states of one session. -/

namespace SameSession
variable {s t : State} (h : SameSession s t)
include h

theorem st_eq : s.st = t.st := by simp_all [SameSession]

theorem phase_eq : s.phase = t.phase := by simp_all [SameSession]

theorem par_eq : s.par = t.par := by simp_all [SameSession]

theorem cur_eq : s.cur = t.cur := by simp_all [SameSession]

theorem bitsPerSample_eq : s.bitsPerSample = t.bitsPerSample := by simp_all [SameSession]

theorem memRead_eq (n : Nat) : memRead s.src s.cur.toNat n = memRead t.src t.cur.toNat n := by
  simp_all [SameSession]

theorem raise (e : Cause) (a : Nat) : SameSession (Machine.raise e a s) (Machine.raise e a t) := by
  simp_all [SameSession]

theorem seek (hg : s.gIdx < s.numGroups.toNat) : SameSession (Machine.seek s) (Machine.seek t) := by
  simp_all [SameSession]

/-- The header latch is not read by the session. -/
theorem enterBlock (base base' : BitVec 32) (bits bits' flags flags' : BitVec 16) :
    SameSession (Machine.enterBlock base bits flags s) (Machine.enterBlock base' bits' flags' t) := by
  simp_all [SameSession]

theorem rejectHeader (f : HeaderFault) (w : BitVec 128) :
    SameSession (Machine.rejectHeader f w s) (Machine.rejectHeader f w t) := by
  obtain ⟨base, bits, flags, hs⟩ := rejectHeader_eq_raise f w s
  obtain ⟨base', bits', flags', ht⟩ := rejectHeader_eq_raise f w t
  rw [hs, ht, h.cur_eq]
  exact (h.enterBlock base base' bits bits' flags flags').raise _ _

theorem streamStart {i : Instr} (hi : isStreamInstr i = true) :
    SameSession (Machine.streamStart i s) (Machine.streamStart i t) := by
  simp_all [SameSession, streamStart_cur hi]

theorem payloadBytes_eq (i : Instr) : payloadBytes i s = payloadBytes i t := by
  cases i <;> simp only [payloadBytes, h.bitsPerSample_eq]

/-- A block appends and flags what its own bytes say (R243), whatever the per-block registers held. -/
theorem completeBlock {i : Instr} {bs : List Byte} (hi : isStreamInstr i = true) (hw : i.wellFormed = true)
    (hlen : bs.length = payloadBytes i s) :
    SameSession (Machine.completeBlock i bs s) (Machine.completeBlock i bs t) := by
  have hlen' : bs.length = payloadBytes i t := hlen.trans (h.payloadBytes_eq i)
  have hch : (Machine.completeBlock i bs s).ch = (Machine.completeBlock i bs t).ch := by
    rw [completeBlock_ch, completeBlock_ch, ← completeBlock_sbuf, ← completeBlock_sbuf,
      completeBlock_sbuf_eq hi hw hlen, completeBlock_sbuf_eq hi hw hlen']
    simp_all [SameSession, inFinalGroup]
  have hovf := completeBlock_ovf_eq hi hw hlen
  have hovf' := completeBlock_ovf_eq hi hw hlen'
  simp only [SameSession, hch, hovf, hovf']
  simp_all [SameSession, streamStart_cur hi, streamStart_payLen hi]

theorem check : SameSession (Machine.check s) (Machine.check t) := by
  have hshort : firstShortChannel t.ch t.numSamples.toNat t.channels.toNat =
      firstShortChannel s.ch s.numSamples.toNat s.channels.toNat := by simp_all [SameSession]
  simp only [Machine.check, hshort]
  split
  · simp_all [SameSession]
  · simp_all [SameSession]

theorem frame_eq : frame s.ch s.channels.toNat s.fIdx = frame t.ch t.channels.toNat t.fIdx := by
  simp_all [SameSession]

theorem framesLeft_iff : s.fIdx < s.numSamples.toNat ↔ t.fIdx < t.numSamples.toNat := by
  simp_all [SameSession]

theorem emit (out out' : List Sample) :
    SameSession { s with out := out, fIdx := s.fIdx + 1 } { t with out := out', fIdx := t.fIdx + 1 } := by
  simp_all [SameSession]

theorem finishSession : SameSession (Machine.finishSession s) (Machine.finishSession t) := by
  simp_all [SameSession]

end SameSession

/-! Two runs left alone. -/

@[simp] theorem rejectHeader_host (f : HeaderFault) (w : BitVec 128) (s : State) :
    (rejectHeader f w s).host = s.host := by
  obtain ⟨base, bits, flags, hr⟩ := rejectHeader_eq_raise f w s
  simp [hr]

@[simp] theorem rejectHeader_out (f : HeaderFault) (w : BitVec 128) (s : State) : (rejectHeader f w s).out = s.out := by
  obtain ⟨base, bits, flags, hr⟩ := rejectHeader_eq_raise f w s
  simp [hr]

@[simp] theorem check_host (s : State) : (check s).host = s.host := by
  unfold check
  split <;> rfl

@[simp] theorem check_out (s : State) : (check s).out = s.out := by
  unfold check
  split <;> rfl

/-- Two states of one session, left alone, that have emitted the same values since their outputs were `a` and `b`. -/
structure InStep (a b : List Sample) (s t : State) : Prop where
  same : SameSession s t
  alone : s.host = [] ∧ t.host = []
  emitted : ∃ vs, s.out = a ++ vs ∧ t.out = b ++ vs

namespace InStep
variable {a b : List Sample} {s t s' t' : State} (h : InStep a b s t)
include h

/-- An operation that takes no host event and emits nothing keeps two runs in step. -/
theorem silent (hsame : SameSession s' t') (hhost : s'.host = s.host := by simp) (hout : s'.out = s.out := by simp)
    (hhost' : t'.host = t.host := by simp) (hout' : t'.out = t.out := by simp) : InStep a b s' t' :=
  ⟨hsame, ⟨hhost.trans h.alone.1, hhost'.trans h.alone.2⟩, by rw [hout, hout']; exact h.emitted⟩

/-- INTERLEAVE emits the same frame in both runs. -/
theorem emit (vs : List Sample) :
    InStep a b { s with out := s.out ++ vs, fIdx := s.fIdx + 1 } { t with out := t.out ++ vs, fIdx := t.fIdx + 1 } := by
  obtain ⟨ws, hs, ht⟩ := h.emitted
  exact ⟨h.same.emit _ _, h.alone, ws ++ vs, by simp [hs], by simp [ht]⟩

/-- A stream instruction raises in both runs, or completes in both on the same payload. -/
theorem exec {i : Instr} (hi : isStreamInstr i = true) (hw : i.wellFormed = true) (hx : Machine.exec i s = .next s') :
    ∃ t', Machine.exec i t = .next t' ∧ InStep a b s' t' := by
  have hbps := h.same.bitsPerSample_eq
  have hfetch : memRead (streamStart i s).src (streamStart i s).cur.toNat (streamStart i s).payLen =
      memRead (streamStart i t).src (streamStart i t).cur.toNat (streamStart i t).payLen := by
    rw [(h.same.streamStart hi).memRead_eq, streamStart_payLen hi, streamStart_payLen hi, h.same.payloadBytes_eq]
  simp only [streamStart_src] at hfetch
  rcases exec_stream_cases hi s with ⟨base, flags, r, rfl, hbad, hs⟩ | ⟨hd, ⟨e, hm, hs⟩ | ⟨bs, hm, hs⟩⟩
  · obtain rfl := Host.Outcome.next.inj (hs.symm.trans hx)
    refine ⟨_, exec_raw_of_depthIllegal (hbps ▸ hbad), h.silent ?_⟩
    rw [h.same.cur_eq]
    exact (h.same.enterBlock ..).raise _ _
  · obtain rfl := Host.Outcome.next.inj (hs.symm.trans hx)
    exact ⟨_, exec_of_fetchError hi (hbps ▸ hd) (hfetch ▸ hm), h.silent ((h.same.streamStart hi).raise _ _)⟩
  · obtain rfl : completeBlock i bs s = s' := Host.Outcome.next.inj (hs.symm.trans hx)
    have hlen : bs.length = payloadBytes i s := by
      rw [(memRead_ok hm).2, Memory.readRange_length, streamStart_payLen hi]
    exact ⟨_, exec_of_fetchOk hi (hbps ▸ hd) (hfetch ▸ hm), h.silent (h.same.completeBlock hi hw hlen)⟩

/-- Two runs in step stay in step: the second makes the move of the first. -/
theorem step (htable : s.SeekInTable) (hx : Machine.step s = .next s') :
    ∃ t', Machine.step t = .next t' ∧ InStep a b s' t' := by
  have hturn : UnitTurnIn t t := .inl ⟨h.alone.2, rfl⟩
  have hst := h.same.st_eq
  have hphase := h.same.phase_eq
  rw [step_of_unitTurn (.inl ⟨h.alone.1, rfl⟩)] at hx
  cases unitTurn_cases hx with
  | quiet hs hs' => exact ⟨t, unitQuietOutsideBusy t t hturn (hst ▸ hs), hs' ▸ h⟩
  | seek hs hp hs' =>
    exact ⟨_, step_of_seek hturn (hst ▸ hs) (hphase ▸ hp), hs' ▸ h.silent (h.same.seek (htable hs hp))⟩
  | fetchRaises e hs hp hm hs' =>
    rw [h.same.memRead_eq] at hm
    exact ⟨_, step_of_headerUnread hturn (hst ▸ hs) (hphase ▸ hp) hm, hs' ▸ h.silent (h.same.raise _ _)⟩
  | rejected hdr f hs hp hm hd hs' =>
    rw [h.same.memRead_eq] at hm
    rw [h.same.par_eq] at hd
    refine ⟨_, (step_of_block hturn (hst ▸ hs) (hphase ▸ hp)).trans (blockTurn_of_rejected hm hd), hs' ▸ ?_⟩
    exact h.silent (h.same.rejectHeader f _)
  | runs hdr i hs hp hm hd hs' =>
    rw [h.same.memRead_eq] at hm
    rw [h.same.par_eq] at hd
    obtain ⟨hi, hw⟩ := decodeHeader_ok hd
    rw [stepRunsStreamInstruction t t hdr i hturn (hst ▸ hs) (hphase ▸ hp) hm hd]
    exact h.exec hi hw hs'
  | check hs hp hs' => exact ⟨_, step_of_check hturn (hst ▸ hs) (hphase ▸ hp), hs' ▸ h.silent h.same.check⟩
  | emits vs hs hp hf hv hs' =>
    rw [h.same.framesLeft_iff] at hf
    rw [h.same.frame_eq] at hv
    refine ⟨_, ?_, hs' ▸ h.emit vs⟩
    rw [step_of_interleave hturn (hst ▸ hs) (hphase ▸ hp), interleave, if_pos hf, hv]
  | ends hs hp hf hs' =>
    rw [h.same.framesLeft_iff] at hf
    refine ⟨_, ?_, hs' ▸ h.silent h.same.finishSession⟩
    rw [step_of_interleave hturn (hst ▸ hs) (hphase ▸ hp), interleave, if_neg hf]

/-- Two runs in step stay in step for as long as the first one goes on. -/
theorem run {k : Nat} (htable : s.SeekInTable) (hx : Sys2Proof.core.run k s = .next s') :
    ∃ t', Sys2Proof.core.run k t = .next t' ∧ InStep a b s' t' := by
  induction k generalizing s t with
  | zero =>
    cases hx
    exact ⟨t, rfl, h⟩
  | succ k ih =>
    simp only [Host.Core.run] at hx
    split at hx
    · next u hu =>
      obtain ⟨v, hv, huv⟩ := h.step htable hu
      have hmove : UnitMove s u := unitTurn_cases ((step_of_unitTurn (.inl ⟨h.alone.1, rfl⟩)).symm.trans hu)
      obtain ⟨t', ht', hin⟩ := ih huv (htable.unitEffect hmove.effect) hx
      exact ⟨t', run_step hv ht', hin⟩
    · cases hx
    · cases hx

end InStep

/-- A START after which STATE is BUSY has begun a session. -/
theorem exec_start_busy {x : BitVec 30} {s r : State} (hidle : s.st = .idle) (hx : exec (.start x) s = .next r)
    (hbusy : r.st = .busy) : configBad s = false ∧ r = openSession (startClears s) := by
  rcases exec_start_cases x s with ⟨hs, -⟩ | ⟨-, -, hs⟩ | ⟨-, hgood, hs⟩
  · exact absurd hidle hs
  · obtain rfl := Host.Outcome.next.inj (hs.symm.trans hx)
    cases hbusy
  · exact ⟨hgood, (Host.Outcome.next.inj (hs.symm.trans hx)).symm⟩

/-- Settles O59: START clears what the two states may differ in, the sessions it begins are in step, and the moves of
the unit keep them so. -/
theorem sessionIndependentOfPast : Obligations.SessionIndependentOfPast := by
  intro x y s s' r r' t k hidle hidle' hhost hhost' hpar hsrc hchannels hbps hsamples hgroups hoffset htable hx hx'
    hbusy hrun
  obtain ⟨hgood, rfl⟩ := exec_start_busy hidle hx hbusy
  have hgood' : configBad s' = false := by simpa only [configBad, hpar, hchannels, hgroups] using hgood
  have hstart : exec (.start y) s' = .next (openSession (startClears s')) := by
    simp only [exec, execStart, hidle', hgood', if_true, Bool.false_eq_true, if_false]
  obtain rfl := Host.Outcome.next.inj (hstart.symm.trans hx')
  have hphase : (openSession (startClears s)).phase = (openSession (startClears s')).phase := by
    rw [openSession_phase, openSession_phase, startClears_numGroups, startClears_numGroups, hgroups]
  have hsame : SameSession (openSession (startClears s)) (openSession (startClears s')) := by
    simp_all [SameSession, -openSession_phase]
  have hin : InStep s.out s'.out (openSession (startClears s)) (openSession (startClears s')) :=
    ⟨hsame, by simp [hhost, hhost'], [], by simp⟩
  obtain ⟨t', ht', hend⟩ := hin.run (openSession_seekInTable s) hrun
  obtain ⟨vs, hout, hout'⟩ := hend.emitted
  exact ⟨t', vs, ht', hend.same, hout, hout'⟩

end Sys2Proof.Machine

/-! The trim count, the trim policies and START (`42_assembler.md` R152 to R157, R167, `43_host_commands.md` R183). -/

namespace Sys2Proof.Machine

/-- When C is a power of two up to CAP, OVERFLOW is N modulo the frames a block-group fills (R152). -/
theorem overflowCount_two_pow (n : Nat) {k : Nat} (hk : k ≤ 9) : overflowCount n (2 ^ k) = n % (512 / 2 ^ k) := by
  have hcap : 2 ^ k * (512 / 2 ^ k) = Config.cap := Nat.mul_div_cancel' (Nat.pow_dvd_pow 2 hk)
  rw [overflowCount, ← hcap, Nat.mod_mul_right_div_self, Nat.mul_div_cancel _ (Nat.two_pow_pos k)]

theorem overflowCount_of_gt (n : Nat) {c : Nat} (hc : 511 < c) : overflowCount n c = 0 :=
  Nat.div_eq_of_lt ((Nat.mod_lt _ (by decide)).trans_le hc)

/-- Settles O28: OVERFLOW is a remainder modulo 512 divided by C. -/
theorem overflowFormulaValues : Obligations.OverflowFormulaValues := by
  refine ⟨fun n c _ => ⟨rfl, ?_, overflowCount_le n c⟩, fun n k => overflowCount_two_pow n, fun n c =>
    overflowCount_of_gt n, rfl⟩
  exact Nat.div_le_div_right (Nat.le_of_lt_succ (Nat.mod_lt _ (by decide)))

/-- Settles O29: each policy's `keepSample` keeps what lies before or behind one index of the block. -/
theorem trimPoliciesKeep : Obligations.TrimPoliciesKeep := by
  intro samples n hlen hn
  have hfirst : keptSamples true .dropFirst n 0 samples = samples.drop n := keptSamples_dropFirst n 0 samples
  have hkeep : keptSamples true .keepFirst n 0 samples = samples.take n := keptSamples_keepFirst n 0 samples
  have hlast : keptSamples true .dropLast n 0 samples = samples.take (512 - n) :=
    (keptSamples_dropLast n 0 samples).trans (keptSamples_keepFirst (512 - n) 0 samples)
  exact ⟨fun p => keptSamples_all p n 0 samples, hfirst, hlast, hkeep, keptSamples_length hn hlen,
    keptSamples_length hn hlen, keptSamples_length hn hlen⟩

/-- START in IDLE with a good configuration begins the session. -/
theorem exec_start_of_good {s : State} (x : BitVec 30) (hidle : s.st = .idle) (hgood : ConfigGood s) :
    exec (.start x) s = .next (openSession (startClears s)) := by
  rcases exec_start_cases x s with ⟨hs, -⟩ | ⟨-, hbad, -⟩ | ⟨-, -, hx⟩
  · exact absurd hidle hs
  · exact absurd (configBad_eq_false_iff.2 hgood) (by simp [hbad])
  · exact hx

/-- Settles O33: the session is opened in the state START has cleared. -/
theorem startBeginsSession : Obligations.StartBeginsSession := by
  intro x s hidle hgood
  have h0 : s.numGroups = 0 ↔ s.numGroups.toNat = 0 := by rw [← BitVec.toNat_inj]; rfl
  rw [exec_start_of_good x hidle hgood]
  simp only [← h0]
  rfl

end Sys2Proof.Machine

/-! CHECK and INTERLEAVE as the unit's turn (`42_assembler.md` R159, R160, R162). -/

namespace Sys2Proof.Machine

/-- Settles O30: the search of CHECK finds the first short channel, and the exception is raised at it. -/
theorem checkShortRaises : Obligations.CheckShortRaises := by
  intro s u c hu hst hp hc hshort hmin
  have hfound : firstShortChannel u.ch u.numSamples.toNat u.channels.toNat = some c :=
    firstShortChannel_some.2 ⟨hc, hshort, hmin⟩
  have hcur : BitVec.ofNat 64 u.cur.toNat = u.cur := by simp
  rw [step_of_check hu hst hp, check, hfound]
  simp only [raise, hcur]
  rfl

/-- Settles O31: the search of CHECK finds no short channel; EXC is what its second loop adds. -/
theorem checkPasses : Obligations.CheckPasses := by
  intro s u hu hst hp h0 hlong
  have hchannels : u.channels ≠ 0 := fun h => h0 (by simp [h])
  rcases check_cases u with ⟨c, hc, hshort, -, -⟩ | ⟨-, hpass⟩
  · exact absurd (hlong c hc) (Nat.not_le.2 hshort)
  · rw [if_neg hchannels] at hpass
    refine ⟨_, (step_of_check hu hst hp).trans (congrArg _ hpass), ?_, rfl⟩
    simp only [Bool.or_eq_true, someChannelExceeds_iff]

/-- Settles O32: the frame exists, as every channel is long enough; after the last one the session is finished. -/
theorem interleaveEmitsFrame : Obligations.InterleaveEmitsFrame := by
  intro s u hu hst hp
  rw [step_of_interleave hu hst hp, interleave]
  refine ⟨fun hf hlong => ?_, fun hf => if_neg (Nat.not_lt.2 hf)⟩
  rw [if_pos hf, frame_of_long hlong]

/-- `s` with its first `n` frames emitted, frame after frame. -/
def afterFrames (n : Nat) (s : State) : State :=
  { s with
    out := s.out ++ (List.range n).flatMap fun f =>
      (List.range s.channels.toNat).map fun c => (channel s.ch c).getD f 0
    fIdx := n }

theorem afterFrames_zero {s : State} (hf : s.fIdx = 0) : afterFrames 0 s = s := by
  simp only [afterFrames, List.range_zero, List.flatMap_nil, List.append_nil]
  rw [← hf]

section Interleave
variable {s : State} (hst : s.st = .busy) (hp : s.phase = .interleave) (hhost : s.host = [])
include hst hp hhost

theorem step_afterFrames {n : Nat} (hn : n < s.numSamples.toNat)
    (hlong : ∀ c, c < s.channels.toNat → s.numSamples.toNat ≤ (channel s.ch c).length) :
    step (afterFrames n s) = .next (afterFrames (n + 1) s) := by
  refine ((interleaveEmitsFrame (afterFrames n s) _ (.inl ⟨hhost, rfl⟩) hst hp).1 hn
    fun c hc => hn.trans_le (hlong c hc)).trans ?_
  simp [afterFrames, List.range_succ]

/-- From the start of INTERLEAVE each turn emits one frame, up to frame N − 1 (R160). -/
theorem run_afterFrames (hf : s.fIdx = 0)
    (hlong : ∀ c, c < s.channels.toNat → s.numSamples.toNat ≤ (channel s.ch c).length) {n : Nat}
    (hn : n ≤ s.numSamples.toNat) : Sys2Proof.core.run n s = .next (afterFrames n s) := by
  induction n with
  | zero => rw [afterFrames_zero hf]; rfl
  | succ n ih => exact run_append (ih (Nat.le_of_succ_le hn)) (run_step (step_afterFrames hst hp hhost hn hlong) rfl)

end Interleave

/-- Settles O58: N turns emit the N frames, and the next one finishes the session. -/
theorem interleaveOutputFrameMajor : Obligations.InterleaveOutputFrameMajor := by
  intro s hst hp hf hhost hlong
  have hend : step (afterFrames s.numSamples.toNat s) = .next (finishSession (afterFrames s.numSamples.toNat s)) :=
    (interleaveEmitsFrame (afterFrames _ s) _ (.inl ⟨hhost, rfl⟩) hst hp).2 (le_refl _)
  exact ⟨_, run_append (run_afterFrames hst hp hhost hf hlong (le_refl _)) (run_step hend rfl), rfl, fun _ => rfl, rfl⟩

end Sys2Proof.Machine

/-! A session left alone: how many turns it has left, and how many values it has emitted (`42_assembler.md` R150, R161,
`70_reset_and_hazards.md` R258). -/

namespace Sys2Proof.Machine

/-- How many turns a session that raises nothing has left: C BLOCKs and a SEEK for each block-group, CHECK, the frames
and the end (R150; log entry 9). -/
def stepsLeft (s : State) : Nat :=
  match s.phase with
  | .seek => (s.numGroups.toNat - s.gIdx) * (s.channels.toNat + 1) + s.numSamples.toNat + 2
  | .block =>
    (s.numGroups.toNat - (s.gIdx + 1)) * (s.channels.toNat + 1) + (s.channels.toNat - s.cIdx) + s.numSamples.toNat + 2
  | .check => s.numSamples.toNat + 2
  | .interleave => s.numSamples.toNat - s.fIdx + 1

theorem stepsLeft_pos (s : State) : 0 < stepsLeft s := by
  unfold stepsLeft
  split <;> exact Nat.succ_pos _

/-- The groups after this one and this one's BLOCKs and SEEK are the groups from this one on. -/
theorem groups_left {total g : Nat} (hg : g < total) (c : Nat) :
    (total - g) * (c + 1) = (total - (g + 1)) * (c + 1) + (c + 1) := by
  rw [← Nat.succ_mul]
  congr 1
  omega

theorem stepsLeft_seek_lt {s : State} (hp : s.phase = .seek) (hg : s.gIdx < s.numGroups.toNat) :
    stepsLeft (seek s) < stepsLeft s := by
  have h := groups_left hg s.channels.toNat
  simp only [stepsLeft, seek_phase, hp, seek_numGroups, seek_gIdx, seek_channels, seek_cIdx, seek_numSamples]
  omega

/-- A block is followed by the next channel's, by the next group's SEEK, or by CHECK. -/
theorem stepsLeft_completeBlock_lt {i : Instr} {bs : List Byte} {s : State} (hp : s.phase = .block)
    (hc : s.cIdx < s.channels.toNat) : stepsLeft (completeBlock i bs s) < stepsLeft s := by
  by_cases hmore : s.cIdx + 1 < s.channels.toNat
  · simp only [stepsLeft, completeBlock_phase, completeBlock_gIdx, hmore, hp, if_true, completeBlock_numGroups,
      completeBlock_channels, completeBlock_cIdx, completeBlock_numSamples]
    omega
  · by_cases hgroup : s.gIdx + 1 < s.numGroups.toNat <;>
      simp only [stepsLeft, completeBlock_phase, completeBlock_gIdx, hmore, hgroup, hp, if_true, if_false,
        completeBlock_numGroups, completeBlock_channels, completeBlock_numSamples] <;>
      omega

/-- INTERLEAVE counts from frame 0 when it begins (R150). -/
theorem State.Running.fIdx_eq_zero {s : State} (h : s.Running) (hp : s.phase ≠ .interleave) : s.fIdx = 0 := by
  simpa only [if_neg hp] using h.frames

/-- A running session never has more turns left than a whole one takes. -/
theorem State.Running.stepsLeft_le {s : State} (h : s.Running) :
    stepsLeft s ≤ s.numGroups.toNat * (s.channels.toNat + 1) + s.numSamples.toNat + 2 := by
  have hall : (s.numGroups.toNat - s.gIdx) * (s.channels.toNat + 1) ≤ s.numGroups.toNat * (s.channels.toNat + 1) :=
    Nat.mul_le_mul_right _ (Nat.sub_le _ _)
  unfold stepsLeft
  rcases hp : s.phase
  case block =>
    have hg : s.gIdx < s.numGroups.toNat := by simpa [hp] using h.groups
    have hgroups := groups_left hg s.channels.toNat
    simp only
    omega
  all_goals simp only; omega

/-- What a turn of the unit does to a session's progress and to its output. -/
inductive SessionMove (s t : State) : Prop where
  | raises (hf : s.fIdx = 0) (ht : t.st = .error) (hout : t.out = s.out)
  | advances (hst : t.st = .busy) (hout : t.out = s.out) (hf : t.fIdx = s.fIdx) (hless : stepsLeft t < stepsLeft s)
  | emits (vs : List Sample) (hp : s.phase = .interleave) (hf : s.fIdx < s.numSamples.toNat)
      (hlen : vs.length = s.channels.toNat) (ht : t = { s with out := s.out ++ vs, fIdx := s.fIdx + 1 })
  | ends (hf : s.fIdx = s.numSamples.toNat) (ht : t = finishSession s)

/-- A stream instruction of a session raises or makes progress, and emits nothing. -/
theorem exec_sessionMove {i : Instr} {s t : State} (hrun : s.Running) (hst : s.st = .busy) (hp : s.phase = .block)
    (hi : isStreamInstr i = true) (hx : exec i s = .next t) : SessionMove s t := by
  have hf : s.fIdx = 0 := hrun.fIdx_eq_zero (by simp [hp])
  rcases exec_stream_cases hi s with ⟨base, flags, r, -, -, h⟩ | ⟨-, ⟨e, -, h⟩ | ⟨bs, -, h⟩⟩
  · obtain rfl := Host.Outcome.next.inj (h.symm.trans hx)
    exact .raises hf (by simp) (by simp)
  · obtain rfl := Host.Outcome.next.inj (h.symm.trans hx)
    exact .raises hf (by simp) (by simp)
  · obtain rfl : completeBlock i bs s = t := Host.Outcome.next.inj (h.symm.trans hx)
    exact .advances (by simp [hst]) (by simp) (by simp) (stepsLeft_completeBlock_lt hp (hrun.channelIdx hp))

/-- CHECK raises or passes on to INTERLEAVE, and emits nothing (R159). -/
theorem check_sessionMove {s : State} (hrun : s.Running) (hst : s.st = .busy) (hp : s.phase = .check) :
    SessionMove s (check s) := by
  rcases check_cases s with ⟨c, -, -, -, hc⟩ | ⟨-, hc⟩
  · exact hc ▸ .raises (hrun.fIdx_eq_zero (by simp [hp])) rfl rfl
  · refine hc ▸ .advances hst rfl rfl ?_
    simp only [stepsLeft, hp]
    omega

theorem UnitMove.sessionMove {s t : State} (h : UnitMove s t) (hst : s.st = .busy) (hrun : s.Running) :
    SessionMove s t := by
  cases h with
  | quiet hne ht => exact absurd hst hne
  | seek _ hp ht =>
    have hg : s.gIdx < s.numGroups.toNat := by simpa [hp] using hrun.groups
    exact ht ▸ .advances (by simp [hst]) (by simp) (by simp) (stepsLeft_seek_lt hp hg)
  | fetchRaises e _ hp hm ht => exact ht ▸ .raises (hrun.fIdx_eq_zero (by simp [hp])) (by simp) (by simp)
  | rejected hdr f _ hp hm hd ht =>
    exact ht ▸ .raises (hrun.fIdx_eq_zero (by simp [hp])) (by simp [rejectHeader]) (by simp)
  | runs hdr i _ hp hm hd ht => exact exec_sessionMove hrun hst hp (decodeHeader_ok hd).1 ht
  | check _ hp ht => exact ht ▸ check_sessionMove hrun hst hp
  | emits vs _ hp hf hv ht => exact .emits vs hp hf (frame_length hv) ht
  | ends _ hp hf ht =>
    have hle : s.fIdx ≤ s.numSamples.toNat := by simpa [hp] using hrun.frames
    exact .ends (Nat.le_antisymm hle (Nat.le_of_not_lt hf)) ht

/-- Each turn ends the session or brings it nearer to its end. -/
theorem SessionMove.progress {s t : State} (h : SessionMove s t) (hst : s.st = .busy) :
    t.Ended ∨ (t.st = .busy ∧ stepsLeft t < stepsLeft s) := by
  cases h with
  | raises _ ht _ => exact .inl (.inr ht)
  | advances ht _ _ hless => exact .inr ⟨ht, hless⟩
  | emits vs hp hf _ ht =>
    subst ht
    refine .inr ⟨hst, ?_⟩
    simp only [stepsLeft, hp]
    omega
  | ends _ ht => exact .inl (.inl (ht ▸ rfl))

/-! What the unit's turn leaves of the events and the configuration. -/

theorem RaisedIn.config_eq {u v : State} (h : RaisedIn u v) :
    v.host = u.host ∧ v.channels = u.channels ∧ v.numSamples = u.numSamples := by
  cases h <;> simp

theorem UnitEffect.config_eq {u t : State} (h : UnitEffect u t) :
    t.host = u.host ∧ t.channels = u.channels ∧ t.numSamples = u.numSamples := by
  cases h with
  | raises e a v hst hv ht => subst ht; exact hv.config_eq
  | quiet ht | seeks _ _ ht | completes _ _ _ _ _ _ _ _ ht | passes _ _ _ _ _ _ ht | emits _ _ _ _ ht | ends _ ht =>
    simp [ht]

/-- With no host event pending a step is the unit's turn. -/
theorem unitMove_of_step {s t : State} (hhost : s.host = []) (h : step s = .next t) : UnitMove s t :=
  unitTurn_cases ((step_of_unitTurn (.inl ⟨hhost, rfl⟩)).symm.trans h)

/-! Termination. -/

/-- By induction on the turns left: there is a next turn, and it ends the session or leaves fewer. -/
theorem exists_run_ended {s : State} (hcanon : s.Canonical) (hcons : s.Consistent) (hst : s.st = .busy)
    (hhost : s.host = []) : ∃ k t, k ≤ stepsLeft s ∧ Sys2Proof.core.run k s = .next t ∧ t.Ended := by
  induction hn : stepsLeft s using Nat.strong_induction_on generalizing s with
  | h n ih =>
    subst hn
    obtain ⟨t, ht⟩ := unitNeverStops s hcanon hcons (.inl hhost)
    have hmove : UnitMove s t := unitMove_of_step hhost ht
    obtain ⟨hhost', -, -⟩ := hmove.effect.config_eq
    rcases (hmove.sessionMove hst (hcons.1 hst)).progress hst with hend | ⟨hbusy, hless⟩
    · exact ⟨1, t, stepsLeft_pos s, run_step ht rfl, hend⟩
    · obtain ⟨k, v, hk, hrun, hend⟩ := ih _ hless (stepKeepsCanonical s t hcanon ht)
        (stepKeepsSessionConsistent s t hcanon hcons ht) hbusy (hhost'.trans hhost) rfl
      exact ⟨k + 1, v, hk.trans_lt hless, run_step ht hrun, hend⟩

/-- Settles O56: the turns left are a measure every turn of the session lowers, and never above the bound. -/
theorem sessionEnds : Obligations.SessionEnds := by
  intro s hcanon hcons hst hhost
  obtain ⟨k, t, hk, hrun, hend⟩ := exists_run_ended hcanon hcons hst hhost
  exact ⟨k, t, hk.trans (hcons.1 hst).stepsLeft_le, hrun, hend⟩

/-! The length of the output. -/

/-- How many values a session has emitted, by where it stands (R160, R161). -/
def emittedCount (s : State) : Nat :=
  match s.st with
  | .busy => s.fIdx * s.channels.toNat
  | .done => s.numSamples.toNat * s.channels.toNat
  | .idle => 0
  | .error => 0

/-- What a turn of a session appends to OUT is what it adds to the count: an exception is raised before frame 0, and
the session is DONE after frame N − 1. -/
theorem SessionMove.emitted {s t : State} (h : SessionMove s t) (hst : s.st = .busy) (hc : t.channels = s.channels) :
    ∃ vs, t.out = s.out ++ vs ∧ emittedCount t = emittedCount s + vs.length := by
  cases h with
  | raises hf ht hout => exact ⟨[], by simp [hout], by simp [emittedCount, hst, ht, hf]⟩
  | advances ht hout hf _ => exact ⟨[], by simp [hout], by simp [emittedCount, hst, ht, hf, hc]⟩
  | emits vs hp hf hlen ht =>
    subst ht
    exact ⟨vs, rfl, by simp only [emittedCount, hst, hlen, Nat.add_mul, Nat.one_mul]⟩
  | ends hf ht =>
    subst ht
    exact ⟨[], by simp, by simp [emittedCount, hst, hf]⟩

theorem UnitMove.eq_of_not_busy {s t : State} (h : UnitMove s t) (hst : s.st ≠ .busy) : t = s := by
  cases h with
  | quiet _ ht => exact ht
  | seek hbusy _ _ | fetchRaises _ hbusy _ _ _ | rejected _ _ hbusy _ _ _ _ | runs _ _ hbusy _ _ _ _
  | check hbusy _ _ | emits _ hbusy _ _ _ _ | ends hbusy _ _ _ => exact absurd hbusy hst

theorem UnitMove.emitted {s t : State} (h : UnitMove s t) (hcons : s.Consistent) :
    ∃ vs, t.out = s.out ++ vs ∧ emittedCount t = emittedCount s + vs.length := by
  by_cases hst : s.st = .busy
  · exact (h.sessionMove hst (hcons.1 hst)).emitted hst h.effect.config_eq.2.1
  · obtain rfl := h.eq_of_not_busy hst
    exact ⟨[], by simp, rfl⟩

/-- `t` belongs to the session START began in `s`, left alone since, and OUT has grown by what the session emitted. -/
structure SessionFrom (s t : State) : Prop where
  canonical : t.Canonical
  consistent : t.Consistent
  alone : t.host = []
  channels : t.channels = s.channels
  numSamples : t.numSamples = s.numSamples
  emitted : ∃ vs, t.out = s.out ++ vs ∧ vs.length = emittedCount t

theorem SessionFrom.start {x : BitVec 30} {s r : State} (hcanon : s.Canonical) (hidle : s.st = .idle)
    (hhost : s.host = []) (hx : exec (.start x) s = .next r) : SessionFrom s r := by
  rcases exec_start_cases x s with ⟨hs, -⟩ | ⟨-, -, hs⟩ | ⟨-, hgood, hs⟩
  · exact absurd hidle hs
  · obtain rfl := Host.Outcome.next.inj (hs.symm.trans hx)
    exact ⟨hcanon.hostEffect (.configError rfl), .of_empty (by simp) (by simp), hhost, rfl, rfl, [], by simp, rfl⟩
  · obtain rfl := Host.Outcome.next.inj (hs.symm.trans hx)
    have hgood := configBad_eq_false_iff.1 hgood
    exact ⟨hcanon.hostEffect (.opens hgood rfl), .of_running rfl (.opens hgood), hhost, rfl, rfl, [], by simp,
      by simp [emittedCount]⟩

theorem SessionFrom.step {s t t' : State} (h : SessionFrom s t) (hx : Machine.step t = .next t') :
    SessionFrom s t' := by
  have hmove : UnitMove t t' := unitMove_of_step h.alone hx
  obtain ⟨hhost, hchannels, hsamples⟩ := hmove.effect.config_eq
  obtain ⟨vs, hout, hlen⟩ := h.emitted
  obtain ⟨ws, hout', hcount⟩ := hmove.emitted h.consistent
  exact
    { canonical := stepKeepsCanonical t t' h.canonical hx
      consistent := stepKeepsSessionConsistent t t' h.canonical h.consistent hx
      alone := hhost.trans h.alone
      channels := hchannels.trans h.channels
      numSamples := hsamples.trans h.numSamples
      emitted := ⟨vs ++ ws, by rw [hout', hout, List.append_assoc], by rw [List.length_append, hlen, hcount]⟩ }

/-- What every step keeps holds at the end of a run. -/
theorem run_keeps {P : State → Prop} (hstep : ∀ u t, P u → step u = .next t → P t) {k : Nat} {s t : State} (hs : P s)
    (hrun : Sys2Proof.core.run k s = .next t) : P t := by
  induction k generalizing s with
  | zero => cases hrun; exact hs
  | succ k ih =>
    simp only [Host.Core.run] at hrun
    split at hrun
    · next u hu => exact ih (hstep s u hs hu) hrun
    · cases hrun
    · cases hrun

/-- Settles O57: in DONE the count of emitted values is N × C, in ERROR it is 0. -/
theorem sessionOutputLength : Obligations.SessionOutputLength := by
  intro x s r t k hcanon hidle hhost hx hrun
  have h : SessionFrom s t := run_keeps (fun _ _ => SessionFrom.step) (.start hcanon hidle hhost hx) hrun
  obtain ⟨vs, hout, hlen⟩ := h.emitted
  refine ⟨fun hst => ⟨vs, hout, ?_⟩, fun hst => ?_⟩
  · rw [hlen, emittedCount, hst, h.numSamples, h.channels]
  · have hnil : vs = [] := List.length_eq_zero_iff.1 (by rw [hlen, emittedCount, hst])
    rw [hout, hnil, List.append_nil]

end Sys2Proof.Machine

/-! START that begins no session, and the configuration writes (`43_host_commands.md` R181, R183, R184). -/

namespace Sys2Proof.Machine

/-- CONFIG_CHECK fires when one of its four tests does (R184). -/
theorem not_configGood_iff {s : State} :
    ¬ ConfigGood s ↔ s.channels.toNat = 0 ∨ s.par.maxCh < s.channels.toNat ∨ s.par.offtabDepth < s.numGroups.toNat
      ∨ s.par.chbufDepth < 512 * s.numGroups.toNat := by
  simp only [ConfigGood, ne_eq, not_and_or, not_not, Nat.not_le]

/-- START in IDLE with a bad configuration raises ConfigError in the state it has cleared. -/
theorem exec_start_of_bad {s : State} (x : BitVec 30) (hidle : s.st = .idle) (hbad : ¬ ConfigGood s) :
    exec (.start x) s = .next (raise .configError 0 (startClears s)) := by
  rcases exec_start_cases x s with ⟨hs, -⟩ | ⟨-, -, hx⟩ | ⟨-, hgood, -⟩
  · exact absurd hidle hs
  · exact hx
  · exact absurd (configBad_eq_false_iff.1 hgood) hbad

theorem exec_start_of_not_idle {s : State} (x : BitVec 30) (hs : s.st ≠ .idle) : exec (.start x) s = .next s := by
  rcases exec_start_cases x s with ⟨-, hx⟩ | ⟨hidle, -, -⟩ | ⟨hidle, -, -⟩
  · exact hx
  · exact absurd hidle hs
  · exact absurd hidle hs

/-- Settles O34: the exception is raised after START has cleared the indices, so its context is 0. -/
theorem startConfigErrorOrIgnored : Obligations.StartConfigErrorOrIgnored := fun x _ =>
  ⟨fun hidle hbad => exec_start_of_bad x hidle (not_configGood_iff.2 hbad), exec_start_of_not_idle x⟩

section ConfigWrites
variable {s : State} (d : BitVec 32) (hst : s.st ≠ .busy)
include hst

theorem writeReg_channels : writeReg .channels d s = { s with channels := d.extractLsb' 0 16 } := by
  rw [← BitVec.setWidth_eq_extractLsb' (by decide)]
  exact if_neg hst

theorem writeReg_bitsPerSample : writeReg .bitsPerSample d s = { s with bitsPerSample := d.extractLsb' 0 16 } := by
  rw [← BitVec.setWidth_eq_extractLsb' (by decide)]
  exact if_neg hst

theorem writeReg_numSamples : writeReg .numSamples d s = { s with numSamples := d } := if_neg hst

theorem writeReg_numGroups : writeReg .numGroups d s = { s with numGroups := d } := if_neg hst

theorem writeReg_dataOffset : writeReg .dataOffset d s = { s with dataOffset := d } := if_neg hst

end ConfigWrites

/-- While BUSY a write other than to CTRL is taken off the bus and changes nothing (R181, R182, R27). -/
theorem step_of_write_of_busy {s : State} {o : Nat} {d : BitVec 32} {es : List HostEvent}
    (h : s.host = .write o d :: es) (hst : s.st = .busy) (h4 : o % 4 = 0) (h0 : o ≠ 0) :
    step s = .next { s with host := es } := by
  rw [step_of_write h h4 (mt busReg_ctrl h0), writeReg_of_busy (s := { s with host := es }) _ d hst]

/-- Settles O35: each offset is a register of its own, and `writeReg` writes that register alone. -/
theorem configWriteTakesLowBits : Obligations.ConfigWriteTakesLowBits := by
  intro s o d es h
  refine ⟨fun hst => ⟨?_, ?_, ?_, ?_, ?_⟩, step_of_write_of_busy h⟩ <;> rintro rfl
  · exact (step_of_write h rfl nofun).trans (congrArg _ (writeReg_channels d hst))
  · exact (step_of_write h rfl nofun).trans (congrArg _ (writeReg_bitsPerSample d hst))
  · exact (step_of_write h rfl nofun).trans (congrArg _ (writeReg_numSamples d hst))
  · exact (step_of_write h rfl nofun).trans (congrArg _ (writeReg_numGroups d hst))
  · exact (step_of_write h rfl nofun).trans (congrArg _ (writeReg_dataOffset d hst))

end Sys2Proof.Machine

/-! Exceptions (`60_exceptions.md` R201, R210, R215): what an exception records, and what ends ERROR. -/

namespace Sys2Proof.Machine

/-- Settles O42: `raise` is the list of writes of R210. -/
theorem raiseRecordsContext : Obligations.RaiseRecordsContext := fun _ _ _ => rfl

/-- Settles O43: the codes by the table of R201, their bounds cause by cause. -/
theorem causeCodeTable : Obligations.CauseCodeTable := by
  refine ⟨rfl, rfl, rfl, rfl, rfl, rfl, rfl, rfl, rfl, fun e => ?_⟩
  cases e <;> decide

@[simp] theorem writeReg_st (r : BusReg) (d : BitVec 32) (s : State) : (writeReg r d s).st = s.st := by
  unfold writeReg
  split
  · rfl
  · cases r <;> rfl

@[simp] theorem takeOut_st (s : State) : (takeOut s).st = s.st := by
  unfold takeOut
  split <;> rfl

/-- In ERROR a command leaves STATE alone unless it is RESET, d[1] = 1 (R183, R185, R215). -/
theorem command_leaves_error {d : BitVec 32} {i : Instr} {u t : State} (hd : decodeCtrl d = .ok i)
    (ht : exec i u = .next t) (herr : u.st = .error) (hleft : t.st ≠ .error) :
    d.getLsbD 1 = true ∧ t = softReset u := by
  cases h1 : d.getLsbD 1 with
  | true =>
    obtain rfl := Except.ok.inj ((decodeCtrl_of_resetBit h1).symm.trans hd)
    have hx := exec_reset_of_not_busy (d.getLsbD 0) (d.extractLsb' 2 30) (s := u) (by simp [herr])
    exact ⟨rfl, Host.Outcome.next.inj (ht.symm.trans hx)⟩
  | false =>
    cases h0 : d.getLsbD 0 with
    | true =>
      obtain rfl := Except.ok.inj ((decodeCtrl_of_startBit h1 h0).symm.trans hd)
      have hx := exec_start_of_not_idle (d.extractLsb' 2 30) (s := u) (by simp [herr])
      obtain rfl := Host.Outcome.next.inj (ht.symm.trans hx)
      exact absurd herr hleft
    | false => cases (decodeCtrl_of_noOperation h1 h0).symm.trans hd

/-- The host events that end ERROR, and what each makes of the state (R215). -/
theorem HostMove.leaves_error {e : HostEvent} {u t : State} (h : HostMove e u t) (herr : u.st = .error)
    (hleft : t.st ≠ .error) :
    (t = softReset u ∧ ∃ o d, e = .write o d ∧ busReg u.par.offtabDepth o = .ctrl ∧ d.getLsbD 1 = true) ∨
      (t = hardwareReset u ∧ e = .hardwareReset) := by
  cases h with
  | command o d i he hr hd ht =>
    obtain ⟨h1, ht⟩ := command_leaves_error hd ht herr hleft
    exact .inl ⟨ht, o, d, he, hr, h1⟩
  | hardware he ht => exact .inr ⟨ht, he⟩
  | noOperation _ _ _ _ _ ht | write _ _ _ _ ht | read _ _ ht | take _ ht | present _ _ _ _ ht | store _ _ _ _ _ ht
  | fault _ _ _ _ ht => exact absurd (by simp [ht, herr]) hleft

/-- Settles O44: the unit's turn in ERROR is quiet (R219), and of the host's events only the two resets end it. -/
theorem onlyResetLeavesError : Obligations.OnlyResetLeavesError := by
  intro s t herr h hleft
  rcases step_cases h with ⟨-, hu⟩ | ⟨es, -, hu⟩ | ⟨e, es, hhost, -, he⟩
  · exact absurd (hu.eq_of_not_busy (by simp [herr]) ▸ herr) hleft
  · exact absurd (hu.eq_of_not_busy (by simp [herr]) ▸ herr) hleft
  · obtain ⟨rfl, o, d, rfl, hr, h1⟩ | ⟨rfl, rfl⟩ := he.leaves_error herr hleft
    · exact ⟨rfl, rfl, rfl, rfl, rfl, fun _ => rfl, rfl, rfl, rfl, rfl, .inl ⟨o, d, es, hhost, hr, h1⟩⟩
    · exact ⟨rfl, rfl, rfl, rfl, rfl, fun _ => rfl, rfl, rfl, rfl, rfl, .inr ⟨es, hhost⟩⟩

end Sys2Proof.Machine
